-- ==== Sys2Proof/Word.lean ====
section
/-! DEFINITION. The widths of the block's values (rule R6 of spec/00_scope.md): a memory cell and a general register are
8 bits, the address register, the program counter and a stack slot are 16 bits, and the fields of an instruction word
are 4, 8 or 12 bits (rule R81 of spec/30_encoding.md). Every value is unsigned (rule R9). -/

namespace Sys2Proof

/-- A memory cell, a general register or a timer: 8 bits (`MEM_CELL`, `REG_WIDTH`, `TIMER_WIDTH` of rule R6). -/
abbrev Byte := BitVec 8

/-- I, pc, a stack slot or an instruction word: 16 bits (`I_WIDTH`, `PC_WIDTH`, `STACK_SLOT_WIDTH` of rule R6; rule R80). -/
abbrev Word := BitVec 16

/-- The 4-bit field `x` or `y` of an instruction word, naming a general register V0 to VF (rules R20 and R82). -/
abbrev RegIndex := BitVec 4

/-- The 12-bit address immediate `nnn` (rule R81). -/
abbrev Addr12 := BitVec 12

/-- The framebuffer FB: 32 rows of 64 one-bit cells (rule R29 of spec/10_state.md). Cell k = col + 64 × row is bit `col` of
row `row`. -/
abbrev Framebuffer := Vector (BitVec 64) 32

end Sys2Proof
end

