-- ==== Sys2Proof/Syntax.lean ====
section
/-! DEFINITION. The 35 operations of the base set (rule R84 of spec/30_encoding.md), one constructor per row of
spec/opcode_table.json, in the table's order. -/

namespace Sys2Proof

/-- An instruction with its operand fields (rules R81 and R84). A shift carries the field `y` that its word encodes
although nothing reads it (rules R90 and R171). -/
inductive Instr where
  /-- `00E0` CLS, rule R220. -/
  | cls
  /-- `00EE` RET, rule R120. -/
  | ret
  /-- `0nnn` SYS nnn, any nnn but 0x0E0 and 0x0EE, rule R108. -/
  | sys (nnn : Addr12)
  /-- `1nnn` JP nnn, rule R122. -/
  | jp (nnn : Addr12)
  /-- `2nnn` CALL nnn, rule R124. -/
  | call (nnn : Addr12)
  /-- `3xkk` SE Vx,kk, rule R127. -/
  | seImm (x : RegIndex) (kk : Byte)
  /-- `4xkk` SNE Vx,kk, rule R128. -/
  | sneImm (x : RegIndex) (kk : Byte)
  /-- `5xy0` SE Vx,Vy, rule R129. -/
  | seReg (x y : RegIndex)
  /-- `6xkk` LD Vx,kk, rule R150. -/
  | ldImm (x : RegIndex) (kk : Byte)
  /-- `7xkk` ADD Vx,kk, rule R151. -/
  | addImm (x : RegIndex) (kk : Byte)
  /-- `8xy0` LD Vx,Vy, rule R153. -/
  | ldReg (x y : RegIndex)
  /-- `8xy1` OR Vx,Vy, rule R154. -/
  | orReg (x y : RegIndex)
  /-- `8xy2` AND Vx,Vy, rule R155. -/
  | andReg (x y : RegIndex)
  /-- `8xy3` XOR Vx,Vy, rule R156. -/
  | xorReg (x y : RegIndex)
  /-- `8xy4` ADD Vx,Vy, rule R158. -/
  | addReg (x y : RegIndex)
  /-- `8xy5` SUB Vx,Vy, rule R160. -/
  | subReg (x y : RegIndex)
  /-- `8xy6` SHR Vx, rule R162. -/
  | shr (x y : RegIndex)
  /-- `8xy7` SUBN Vx,Vy, rule R164. -/
  | subnReg (x y : RegIndex)
  /-- `8xyE` SHL Vx, rule R166. -/
  | shl (x y : RegIndex)
  /-- `9xy0` SNE Vx,Vy, rule R130. -/
  | sneReg (x y : RegIndex)
  /-- `Annn` LD I,nnn, rule R190. -/
  | ldI (nnn : Addr12)
  /-- `Bnnn` JP V0,nnn, rule R132. -/
  | jpV0 (nnn : Addr12)
  /-- `Cxkk` RND Vx,kk, rule R181. -/
  | rnd (x : RegIndex) (kk : Byte)
  /-- `Dxyn` DRW Vx,Vy,n, rule R223. -/
  | drw (x y : RegIndex) (n : BitVec 4)
  /-- `Ex9E` SKP Vx, rule R250. -/
  | skp (x : RegIndex)
  /-- `ExA1` SKNP Vx, rule R251. -/
  | sknp (x : RegIndex)
  /-- `Fx07` LD Vx,DT, rule R258. -/
  | ldVxDT (x : RegIndex)
  /-- `Fx0A` LD Vx,K, rule R256. -/
  | ldVxK (x : RegIndex)
  /-- `Fx15` LD DT,Vx, rule R259. -/
  | ldDTVx (x : RegIndex)
  /-- `Fx18` LD ST,Vx, rule R260. -/
  | ldSTVx (x : RegIndex)
  /-- `Fx1E` ADD I,Vx, rule R192. -/
  | addI (x : RegIndex)
  /-- `Fx29` LD F,Vx, rule R194. -/
  | ldF (x : RegIndex)
  /-- `Fx33` LD B,Vx, rule R196. -/
  | ldB (x : RegIndex)
  /-- `Fx55` LD [I],Vx, rule R198. -/
  | storeRegs (x : RegIndex)
  /-- `Fx65` LD Vx,[I], rule R200. -/
  | loadRegs (x : RegIndex)
  deriving DecidableEq, Repr

end Sys2Proof
end

