-- ==== Sys2Proof/WellFormed.lean ====
section
/-! DEFINITION. Which terms of `Instr` are instructions of the block. Every register index, immediate, address and sprite
height is valid (rule R82 of spec/30_encoding.md). The one check is that the two words CLS and RET are not SYS (row 3 of
rule R84: "`0nnn` (other)"; rule R86). -/

namespace Sys2Proof

/-- The address field of a SYS word: every nnn but those of CLS and RET (rule R85, selector 0; rule R108). -/
def sysField (nnn : Addr12) : Bool := nnn != 0x0E0 && nnn != 0x0EE

/-- A well-formed instruction: its word selects its own row of the opcode map (rule R84). -/
def Instr.wellFormed : Instr → Bool
  | .sys nnn => sysField nnn
  | .cls | .ret | .jp _ | .call _ | .seImm _ _ | .sneImm _ _ | .seReg _ _ | .ldImm _ _ | .addImm _ _ => true
  | .ldReg _ _ | .orReg _ _ | .andReg _ _ | .xorReg _ _ | .addReg _ _ | .subReg _ _ => true
  | .shr _ _ | .subnReg _ _ | .shl _ _ | .sneReg _ _ | .ldI _ | .jpV0 _ | .rnd _ _ | .drw _ _ _ => true
  | .skp _ | .sknp _ | .ldVxDT _ | .ldVxK _ | .ldDTVx _ | .ldSTVx _ | .addI _ | .ldF _ => true
  | .ldB _ | .storeRegs _ | .loadRegs _ => true

end Sys2Proof
end

