-- ==== Sys2Proof/Decode.lean ====
section
/-! DEFINITION. Decoding and encoding (rules R80 to R89 of spec/30_encoding.md). Decoding is two-level: the primary
selector, then the sub-selector of a grouped selector (rule R85). It is total and rejects by name; what a step does with
a rejected word is rule R109. -/

namespace Sys2Proof

/-- The primary selector word[15:12] (rule R81). -/
def opField (w : Word) : BitVec 4 := w.extractLsb' 12 4

/-- The field `x`, word[11:8] (rule R81). -/
def xField (w : Word) : RegIndex := w.extractLsb' 8 4

/-- The field `y`, word[7:4] (rule R81). -/
def yField (w : Word) : RegIndex := w.extractLsb' 4 4

/-- The field `n`, word[3:0] (rule R81). -/
def nField (w : Word) : BitVec 4 := w.extractLsb' 0 4

/-- The field `kk`, word[7:0] (rule R81). -/
def kkField (w : Word) : Byte := w.extractLsb' 0 8

/-- The field `nnn`, word[11:0] (rule R81). -/
def nnnField (w : Word) : Addr12 := w.extractLsb' 0 12

/-- Why a word is no operation of the table (rule R87: "unrecognized sub-selector within a grouped selector"). Every
primary selector names a row, so only a sub-selector can be unrecognized. -/
inductive DecodeReject where
  /-- `5xyn` with n ≠ 0. -/
  | selector5 (n : BitVec 4)
  /-- `8xyn` with n in 8, 9, A, B, C, D, F (rule R157). -/
  | selector8 (n : BitVec 4)
  /-- `9xyn` with n ≠ 0. -/
  | selector9 (n : BitVec 4)
  /-- `Exkk` with kk not 9E or A1. -/
  | selectorE (kk : Byte)
  /-- `Fxkk` with kk not one of the nine of rule R85. -/
  | selectorF (kk : Byte)
  /-- Fewer than the two bytes of an instruction (rule R89). A step never gives the decoder so few. -/
  | shortWord
  deriving DecidableEq, Repr

/-- Selector 0, sub-selected by the whole of nnn (rule R85): every nnn names a row, the rest being SYS (rule R84 row 3). -/
def decode0 (nnn : Addr12) : Instr :=
  if nnn = 0x0E0 then .cls else if nnn = 0x0EE then .ret else .sys nnn

/-- Selector 8, sub-selected by n (rules R84 and R85). -/
def decode8 (x y : RegIndex) (n : BitVec 4) : Except DecodeReject Instr :=
  match n with
  | 0x0#4 => .ok (.ldReg x y)
  | 0x1#4 => .ok (.orReg x y)
  | 0x2#4 => .ok (.andReg x y)
  | 0x3#4 => .ok (.xorReg x y)
  | 0x4#4 => .ok (.addReg x y)
  | 0x5#4 => .ok (.subReg x y)
  | 0x6#4 => .ok (.shr x y)
  | 0x7#4 => .ok (.subnReg x y)
  | 0xE#4 => .ok (.shl x y)
  | _ => .error (.selector8 n)

/-- Selector E, sub-selected by kk (rules R84 and R85). -/
def decodeE (x : RegIndex) (kk : Byte) : Except DecodeReject Instr :=
  match kk with
  | 0x9E#8 => .ok (.skp x)
  | 0xA1#8 => .ok (.sknp x)
  | _ => .error (.selectorE kk)

/-- Selector F, sub-selected by kk (rules R84 and R85). -/
def decodeF (x : RegIndex) (kk : Byte) : Except DecodeReject Instr :=
  match kk with
  | 0x07#8 => .ok (.ldVxDT x)
  | 0x0A#8 => .ok (.ldVxK x)
  | 0x15#8 => .ok (.ldDTVx x)
  | 0x18#8 => .ok (.ldSTVx x)
  | 0x1E#8 => .ok (.addI x)
  | 0x29#8 => .ok (.ldF x)
  | 0x33#8 => .ok (.ldB x)
  | 0x55#8 => .ok (.storeRegs x)
  | 0x65#8 => .ok (.loadRegs x)
  | _ => .error (.selectorF kk)

/-- The 35-way dispatch map: primary selector, then sub-selector (rules R84 to R87). -/
def decode (w : Word) : Except DecodeReject Instr :=
  match opField w with
  | 0x0#4 => .ok (decode0 (nnnField w))
  | 0x1#4 => .ok (.jp (nnnField w))
  | 0x2#4 => .ok (.call (nnnField w))
  | 0x3#4 => .ok (.seImm (xField w) (kkField w))
  | 0x4#4 => .ok (.sneImm (xField w) (kkField w))
  | 0x5#4 => if nField w = 0 then .ok (.seReg (xField w) (yField w)) else .error (.selector5 (nField w))
  | 0x6#4 => .ok (.ldImm (xField w) (kkField w))
  | 0x7#4 => .ok (.addImm (xField w) (kkField w))
  | 0x8#4 => decode8 (xField w) (yField w) (nField w)
  | 0x9#4 => if nField w = 0 then .ok (.sneReg (xField w) (yField w)) else .error (.selector9 (nField w))
  | 0xA#4 => .ok (.ldI (nnnField w))
  | 0xB#4 => .ok (.jpV0 (nnnField w))
  | 0xC#4 => .ok (.rnd (xField w) (kkField w))
  | 0xD#4 => .ok (.drw (xField w) (yField w) (nField w))
  | 0xE#4 => decodeE (xField w) (kkField w)
  | _ => decodeF (xField w) (kkField w)

/-- A word from its two bytes, the most significant byte first (rules R61 and R80). -/
def wordOfBytes (hi lo : Byte) : Word := hi ++ lo

/-- The byte of a word stored at the lower address (rule R61). -/
def highByte (w : Word) : Byte := w.extractLsb' 8 8

/-- The byte of a word stored at the higher address (rule R61). -/
def lowByte (w : Word) : Byte := w.extractLsb' 0 8

/-- Decoding from bytes, lowest address first: exactly two bytes are consumed (rule R89). -/
def decodeBytes : List Byte → Except DecodeReject (Instr × List Byte)
  | hi :: lo :: rest =>
    match decode (wordOfBytes hi lo) with
    | .ok i => .ok (i, rest)
    | .error e => .error e
  | _ => .error .shortWord

/-- The instruction the decoder reads from a row's bits, numbered as spec/opcode_table.json numbers them: the bits above
`nbits` are 0 and the word is laid out big-endian (rule R61). -/
def decodeTableWord (nbits w : Nat) : Option Instr :=
  let word : Word := BitVec.ofNat 16 (w % 2 ^ nbits)
  match decodeBytes [highByte word, lowByte word] with
  | .ok (i, _) => some i
  | .error _ => none

/-- A word of the form `op nnn` (rule R81). -/
def wordNnn (op : BitVec 4) (nnn : Addr12) : Word := op ++ nnn

/-- A word of the form `op x kk` (rule R81). -/
def wordXkk (op x : BitVec 4) (kk : Byte) : Word := op ++ x ++ kk

/-- A word of the form `op x y n` (rule R81). -/
def wordXyn (op x y n : BitVec 4) : Word := op ++ x ++ y ++ n

/-- The word of an instruction, from the pattern column of rule R84. -/
def encode : Instr → Word
  | .cls => 0x00E0
  | .ret => 0x00EE
  | .sys nnn => wordNnn 0x0 nnn
  | .jp nnn => wordNnn 0x1 nnn
  | .call nnn => wordNnn 0x2 nnn
  | .seImm x kk => wordXkk 0x3 x kk
  | .sneImm x kk => wordXkk 0x4 x kk
  | .seReg x y => wordXyn 0x5 x y 0x0
  | .ldImm x kk => wordXkk 0x6 x kk
  | .addImm x kk => wordXkk 0x7 x kk
  | .ldReg x y => wordXyn 0x8 x y 0x0
  | .orReg x y => wordXyn 0x8 x y 0x1
  | .andReg x y => wordXyn 0x8 x y 0x2
  | .xorReg x y => wordXyn 0x8 x y 0x3
  | .addReg x y => wordXyn 0x8 x y 0x4
  | .subReg x y => wordXyn 0x8 x y 0x5
  | .shr x y => wordXyn 0x8 x y 0x6
  | .subnReg x y => wordXyn 0x8 x y 0x7
  | .shl x y => wordXyn 0x8 x y 0xE
  | .sneReg x y => wordXyn 0x9 x y 0x0
  | .ldI nnn => wordNnn 0xA nnn
  | .jpV0 nnn => wordNnn 0xB nnn
  | .rnd x kk => wordXkk 0xC x kk
  | .drw x y n => wordXyn 0xD x y n
  | .skp x => wordXkk 0xE x 0x9E
  | .sknp x => wordXkk 0xE x 0xA1
  | .ldVxDT x => wordXkk 0xF x 0x07
  | .ldVxK x => wordXkk 0xF x 0x0A
  | .ldDTVx x => wordXkk 0xF x 0x15
  | .ldSTVx x => wordXkk 0xF x 0x18
  | .addI x => wordXkk 0xF x 0x1E
  | .ldF x => wordXkk 0xF x 0x29
  | .ldB x => wordXkk 0xF x 0x33
  | .storeRegs x => wordXkk 0xF x 0x55
  | .loadRegs x => wordXkk 0xF x 0x65

end Sys2Proof
end

