-- ==== Sys2Proof/Config.lean ====
section
/-! DEFINITION. The parameters of rule R6 of spec/00_scope.md, the configuration parameter `FONT` with its default (rule
R195 of spec/43_address_memory.md) and the two values the spec leaves free: the random byte (rule R180) and the choice
among several pressed keys (rule R257). -/

namespace Sys2Proof.Config

/-- `MEM_SIZE` (rule R6): addresses 0x000 to 0xFFF. -/
abbrev memSize : Nat := 0x1000

/-- `PROG_BASE` (rule R6): program space starts here, and everything below it is `RESERVED`. -/
abbrev progBase : Nat := 0x200

/-- `MAX_ROM` (rule R6): the longest program the load port accepts, 4096 − 512. -/
abbrev maxRom : Nat := 3584

/-- `FB_W` (rule R6). -/
abbrev fbWidth : Nat := 64

/-- `FB_H` (rule R6). -/
abbrev fbHeight : Nat := 32

/-- `FONT` (rule R195): 16 glyphs of 5 bytes from address 0x000, top row first. PRESUMED by the spec itself ("from general
knowledge, not in source", decision D18): log entry 2. -/
def font : List Byte :=
  [0xF0, 0x90, 0x90, 0x90, 0xF0] ++ [0x20, 0x60, 0x20, 0x20, 0x70] ++
  [0xF0, 0x10, 0xF0, 0x80, 0xF0] ++ [0xF0, 0x10, 0xF0, 0x10, 0xF0] ++
  [0x90, 0x90, 0xF0, 0x10, 0x10] ++ [0xF0, 0x80, 0xF0, 0x10, 0xF0] ++
  [0xF0, 0x80, 0xF0, 0x90, 0xF0] ++ [0xF0, 0x10, 0x20, 0x40, 0x40] ++
  [0xF0, 0x90, 0xF0, 0x90, 0xF0] ++ [0xF0, 0x90, 0xF0, 0x10, 0xF0] ++
  [0xF0, 0x90, 0xF0, 0x90, 0x90] ++ [0xE0, 0x90, 0xE0, 0x90, 0xE0] ++
  [0xF0, 0x80, 0x80, 0x80, 0xF0] ++ [0xE0, 0x90, 0x90, 0x90, 0xE0] ++
  [0xF0, 0x80, 0xF0, 0x80, 0xF0] ++ [0xF0, 0x80, 0xF0, 0x80, 0x80]

/-- The value of the `rand` port at the n-th RND (rules R180 and R368): a free value, under no law (decision D19).
Log entry 3. -/
opaque randByte : Nat → Byte

/-- The choice the step makes among several pressed keys at the n-th LD Vx,K that binds a key (rule R257): a free value
(decision D12). Log entry 4. -/
opaque keyChoice : Nat → Nat

end Sys2Proof.Config
end

