-- ==== Sys2Proof/Machine/State.lean ====
section
/-! DEFINITION. The whole state of the block (spec/10_state.md), its fault causes (rule R301 of spec/60_exceptions.md)
and the state after reset (rules R37 and R340). State is plain data. The two counters at the end are the model's own. -/

namespace Sys2Proof.Machine

/-- The fault causes of rule R301. A fault is an effect the spec describes (rule R306): the step that raises one is a NEXT
state whose FAULT register holds it, so no outcome of `step` or `exec` is `Host.Outcome.fault`. Each cause is the spec's
conservative choice for a hazard the source leaves open, and errs toward unprovable: safe. -/
inductive Fault where
  /-- Code 1, raised by the fetch of every step when pc + 1 ≥ 0x1000 (rule R102). Safe (D5). -/
  | fetchRange
  /-- Code 2, raised by DRW and LD Vx,[I] on a read address ≥ 0x1000 (rule R57). Safe (D5). -/
  | readRange
  /-- Code 3, raised by LD B,Vx and LD [I],Vx on a write address ≥ 0x1000 (rule R60). Safe (D5). -/
  | writeRange
  /-- Code 4, raised by LD B,Vx and LD [I],Vx on a write address < 0x200 (rule R59). Safe (D6). -/
  | reservedWrite
  /-- Code 5, raised by CALL with SP = 16 (rule R125). Safe (D7). -/
  | stackOverflow
  /-- Code 6, raised by RET with SP = 0 (rule R121). Safe (D7). -/
  | stackUnderflow
  /-- Code 7, raised by SKP and SKNP with V[x] > 15 (rule R252). Safe (D8). -/
  | keyIndex
  deriving DecidableEq, Repr

/-- The refusals of the model. Every instruction has its meaning, so none is answered. -/
inductive Refusal where
  /-- An instruction without a meaning, rejected by name in exec's arm; no arm is left that does so. Safe. -/
  | notModelled (mnemonic : String)
  deriving DecidableEq, Repr

/-- What `raise <Fault>(info)` carries (rule R10): the cause and its info (rule R301). `info` is an address formed without
truncation (rule R54), a fetch address or a register value, so a natural number. -/
structure Raised where
  cause : Fault
  info  : Nat
  deriving DecidableEq, Repr

/-- The recorded value FAULT = (code, info, A), A the fetch address of the faulting instruction (rule R301). -/
structure FaultRecord where
  cause : Fault
  info  : Nat
  addr  : Word
  deriving DecidableEq, Repr

/-- One record of DIAG: the offending word and its fetch address (rules R33 and R110). -/
structure DiagRecord where
  word : Word
  addr : Word
  deriving DecidableEq, Repr

/-- MEM as a list of (address, byte) pairs in the canonical form of `Memory.wf`; an unlisted address reads as
`Memory.initial` (rule R34; log entry 5). -/
abbrev Memory := List Host.Cell

/-- The complete state of the block (spec/10_state.md). -/
structure State where
  /-- V0 to VF, the general register file (rule R20); VF is the flag output (rule R21). -/
  v         : Vector Byte 16
  /-- I, the address register; all 16 bits are kept (rule R23). -/
  i         : Word
  /-- pc, the program counter, a byte address (rule R24). -/
  pc        : Word
  /-- SP, the index of the next free stack slot, 0 to 16 (rule R26). -/
  sp        : Fin 17
  /-- STACK[0] to STACK[15], return addresses (rule R27). -/
  stack     : Vector Word 16
  /-- DT, the delay timer (rule R28). -/
  dt        : Byte
  /-- ST, the sound timer (rule R28). -/
  st        : Byte
  /-- FB, 2048 one-bit cells, row by row (rule R29). -/
  fb        : Framebuffer
  /-- DIRTY (rule R30). -/
  dirty     : Bool
  /-- KEY[0] to KEY[15], sixteen input bits, KEY[k] at bit k (rule R31). -/
  key       : BitVec 16
  /-- FAULT: none or the first fault (rule R32). -/
  fault     : Option FaultRecord
  /-- DIAG, the append-only sequence of records, oldest first (rule R33). -/
  diag      : List DiagRecord
  /-- MEM, 4096 byte cells (rule R34). -/
  mem       : Memory
  /-- The MODEL's own: how many random bytes RND has drawn. The n-th draw is the free value `Config.randByte n`
  (rule R180; log entry 3). -/
  randDraws : Nat
  /-- The MODEL's own: how many keys LD Vx,K has bound. The n-th choice is the free value `Config.keyChoice n`
  (rule R257; log entry 4). -/
  keyPicks  : Nat
  deriving DecidableEq, Repr

/-- The state right after reset (rules R37 and R340). The two counters are the model's own, 0 by DESIGN CHOICE (log
entries 3 and 4). -/
def State.reset : State where
  v         := Vector.replicate 16 0
  i         := 0
  pc        := 0x0200
  sp        := 0
  stack     := Vector.replicate 16 0
  dt        := 0
  st        := 0
  fb        := Vector.replicate 32 0
  dirty     := false
  key       := 0
  fault     := none
  diag      := []
  mem       := []
  randDraws := 0
  keyPicks  := 0

end Sys2Proof.Machine
end

