-- ==== Sys2Proof/Machine/Ops.lean ====
section
/-! DEFINITION. The shared operations: the memory interface (spec/20_memory.md), the register file, the call stack, the
framebuffer cells, the key inputs, diagnostics, and taking a fault (rule R306). The block has no return from a fault
(rule R308): only reset clears FAULT. -/

namespace Sys2Proof.Machine

/-! ### Memory cells -/

/-- What an address that no entry lists holds: the contents after construction, FONT from address 0x000 and zero elsewhere
(rules R37 and R51). -/
def Memory.initial (a : Nat) : Byte := Config.font.getD a 0

/-- The value of cell MEM[a]. The range check of rule R55 is `memRead`'s. -/
def Memory.read : Memory → Nat → Byte
  | [], a => Memory.initial a
  | (b, v) :: m, a => if a = b then v else Memory.read m a

/-- Puts the entry (a, v) before the first entry of a higher address. -/
def Memory.insert (a : Nat) (v : Byte) : Memory → Memory
  | [] => [(a, v)]
  | (b, w) :: m => if a < b then (a, v) :: (b, w) :: m else (b, w) :: Memory.insert a v m

/-- MEM[a] <- v, in canonical form: the value an unlisted address reads as is not listed. -/
def Memory.write (m : Memory) (a : Nat) (v : Byte) : Memory :=
  let rest := m.filter fun c => c.1 != a
  if v = Memory.initial a then rest else Memory.insert a v rest

/-- Writes bytes at consecutive addresses, lowest first (rule R62). -/
def Memory.writeList (m : Memory) (a : Nat) : List Byte → Memory
  | [] => m
  | b :: bs => Memory.writeList (m.write a b) (a + 1) bs

/-- The canonical form: addresses strictly rising, all in the address space, and no entry equal to what an unlisted
address reads as. -/
abbrev Memory.wf (m : Memory) : Prop :=
  m.Pairwise (fun c d => c.1 < d.1) ∧ ∀ c ∈ m, c.1 < Config.memSize ∧ c.2 ≠ Memory.initial c.1

/-! ### The read and write primitives -/

/-- `MemRead(addr, 1)` (rules R55 and R57). -/
def memRead (m : Memory) (a : Nat) : Except Raised Byte :=
  if Config.memSize ≤ a then .error ⟨.readRange, a⟩ else .ok (m.read a)

/-- The bytes at `a .. a + n - 1`, every address checked, lowest first (rules R57 and R62). -/
def readBytes (m : Memory) (a : Nat) : Nat → Except Raised (List Byte)
  | 0 => .ok []
  | n + 1 =>
    match memRead m a with
    | .error r => .error r
    | .ok b =>
      match readBytes m (a + 1) n with
      | .error r => .error r
      | .ok bs => .ok (b :: bs)

/-- The two checks of `MemWrite(addr, 1, v)` (rule R58): the fault it raises, if any. -/
def writeCheck (a : Nat) : Option Raised :=
  if Config.memSize ≤ a then some ⟨.writeRange, a⟩
  else if a < Config.progBase then some ⟨.reservedWrite, a⟩
  else none

/-- The fault of the lowest address of `a .. a + n - 1` that may not be written (rules R60 and R305). -/
def writeCheckAll (a : Nat) : Nat → Option Raised
  | 0 => none
  | n + 1 =>
    match writeCheck a with
    | some r => some r
    | none => writeCheckAll (a + 1) n

/-- Writes bytes from address `a` on, every address checked before any is written (rule R60). -/
def writeBytes (m : Memory) (a : Nat) (bs : List Byte) : Except Raised Memory :=
  match writeCheckAll a bs.length with
  | some r => .error r
  | none => .ok (m.writeList a bs)

/-- `FetchWord(A)`: both bytes must be in MEM; big-endian (rules R61 and R102). -/
def fetchWord (s : State) : Except Raised Word :=
  if Config.memSize ≤ s.pc.toNat + 1 then .error ⟨.fetchRange, s.pc.toNat⟩
  else .ok (s.mem.read s.pc.toNat ++ s.mem.read (s.pc.toNat + 1))

/-! ### Registers -/

/-- `V[r]` (rule R20). -/
def State.getV (s : State) (r : RegIndex) : Byte := s.v[r.toNat]

/-- `V[r] <- b` (rule R20). -/
def State.setV (s : State) (r : RegIndex) (b : Byte) : State := { s with v := s.v.set r.toNat b }

/-- The index of VF (`FLAG_REG`, rule R6). -/
def flagReg : RegIndex := 0xF

/-- `I <- w` (rule R23). -/
def State.setI (s : State) (w : Word) : State := { s with i := w }

/-- `pc <- w` (rule R24). -/
def State.setPc (s : State) (w : Word) : State := { s with pc := w }

/-- `DT <- b` (rule R28). -/
def State.setDT (s : State) (b : Byte) : State := { s with dt := b }

/-- `ST <- b` (rule R28). -/
def State.setST (s : State) (b : Byte) : State := { s with st := b }

/-- MEM replaced as a whole. -/
def State.setMem (s : State) (m : Memory) : State := { s with mem := m }

/-- FB replaced and DIRTY set (rule R30). -/
def State.setFB (s : State) (fb : Framebuffer) : State := { s with fb := fb, dirty := true }

/-- One draw of the random-byte input is used up (rule R368). -/
def State.countDraw (s : State) : State := { s with randDraws := s.randDraws + 1 }

/-- One choice among pressed keys is used up (rule R257). -/
def State.countPick (s : State) : State := { s with keyPicks := s.keyPicks + 1 }

/-- The registers V0 .. V[x], lowest first (rule R198). -/
def State.lowRegs (s : State) (x : RegIndex) : List Byte := s.v.toList.take (x.toNat + 1)

/-- V0, V1, ... take the bytes of the list; a register past its end keeps its value (rules R200 and R201). -/
def State.setLowRegs (s : State) (bs : List Byte) : State :=
  { s with v := Vector.ofFn fun (r : Fin 16) => bs.getD r.val s.v[r] }

/-! ### pc -/

/-- The default advance pc <- pc + 2, and the extra advance of a skip, modulo 2^16 (rules R104 and R105). -/
def State.advance (s : State) : State := s.setPc (s.pc + 2)

/-- A skip: advance again when the condition holds (rule R131). -/
def State.skipIf (s : State) (c : Bool) : State := if c then s.advance else s

/-! ### Call stack -/

/-- Pushes pc, the address after the CALL at `A` (rules R124 and R125). -/
def pushPc (A : Word) (s : State) : Except Raised State :=
  if h : s.sp.val < 16 then
    .ok { s with stack := s.stack.set s.sp.val s.pc, sp := ⟨s.sp.val + 1, by omega⟩ }
  else .error ⟨.stackOverflow, A.toNat⟩

/-- Pops a return address into pc for the RET at `A`; the popped slot keeps its value (rules R120 and R121). -/
def popPc (A : Word) (s : State) : Except Raised State :=
  if h : 0 < s.sp.val then
    .ok { s with sp := ⟨s.sp.val - 1, by omega⟩, pc := s.stack[s.sp.val - 1] }
  else .error ⟨.stackUnderflow, A.toNat⟩

/-! ### Keys -/

/-- KEY[k] (rule R31). -/
def State.keyDown (s : State) (k : Nat) : Bool := s.key.getLsbD k

/-- The pressed keys, lowest first. -/
def State.pressedKeys (s : State) : List Nat := (List.range 16).filter s.keyDown

/-- The key a choice picks among the pressed ones, `none` when no key is pressed: some choice picks each of them (rule
R257). -/
def chooseKey (choice : Nat) : List Nat → Option Nat
  | [] => none
  | [k] => some k
  | k :: ks => some ((k :: ks).getD (choice % (ks.length + 1)) k)

/-! ### Framebuffer -/

/-- Every cell off (rule R220). -/
def fbClear : Framebuffer := Vector.replicate 32 0

/-- A row of FB; there is none from row 32 on. -/
def fbRow (fb : Framebuffer) (row : Nat) : BitVec 64 := fb[row]?.getD 0

/-- FB[k], k = col + 64 × row (rule R29). -/
def fbCell (fb : Framebuffer) (k : Nat) : Bool := (fbRow fb (k / 64)).getLsbD (k % 64)

/-- FB[k] <- FB[k] xor 1 (rule R228). -/
def fbFlip (fb : Framebuffer) (k : Nat) : Framebuffer :=
  fb.setIfInBounds (k / 64) (fbRow fb (k / 64) ^^^ BitVec.twoPow 64 (k % 64))

/-! ### Diagnostics and faults -/

/-- `emit Diag(word, addr)` (rule R110). -/
def State.emitDiag (s : State) (word addr : Word) : State := { s with diag := s.diag ++ [⟨word, addr⟩] }

/-- A decode failure of the word fetched at pc: the default advance and a record, nothing else (rules R108 to R110). -/
def decodeFailure (word : Word) (s : State) : State := s.advance.emitDiag word s.pc

/-- Taking a fault: `s` is the state before the step, and FAULT is all that changes (rule R306). -/
def State.takeFault (s : State) (r : Raised) : State := { s with fault := some ⟨r.cause, r.info, s.pc⟩ }

/-- One operation inside the step of rule R100: the default advance, then the operation; on a raise, the state before the
step with FAULT set (rule R306). -/
def perform (s : State) (body : State → Except Raised State) : Host.Outcome State Fault Refusal :=
  match body s.advance with
  | .ok t => .next t
  | .error r => .next (s.takeFault r)

end Sys2Proof.Machine
end

