-- ==== Sys2Proof/Machine/Operands.lean ====
section
/-! DEFINITION. Operand forms: immediates (rule R83), the addresses formed from I (rules R54 and R191), the font address
(rule R194), the decimal digits (rule R196), the key index (rule R252), the sprite's cells (rules R222 and R226) and the
masked random byte (rule R181). -/

namespace Sys2Proof.Machine

/-- zext_16(nnn) (rule R83). -/
def zextAddr (nnn : Addr12) : Word := nnn.setWidth 16

/-- zext_16(V[r]) (rule R9). -/
def zextByte (b : Byte) : Word := b.setWidth 16

/-- The base address of an access through I, the full 16 bits, never masked (rules R23 and R54). -/
def State.base (s : State) : Nat := s.i.toNat

/-- The address of glyph b: b × 5, no mask (rule R194). -/
def glyphAddr (b : Byte) : Word := zextByte b * 5

/-- Hundreds, tens and ones of a byte (rule R196). -/
def decimalDigits (b : Byte) : List Byte := [b / 100, b / 10 % 10, b % 10]

/-- The draw masked by kk (rule R181). -/
def maskedDraw (draw kk : Byte) : Byte := draw &&& kk

/-- The key index a register holds, at most 15 (rule R252). -/
def keyIndexOf (b : Byte) : Except Raised Nat :=
  if 15 < b.toNat then .error ⟨.keyIndex, b.toNat⟩ else .ok b.toNat

/-- The cell of column `col` and row `row`, each axis wrapped on its own (rule R226). -/
def cellIndex (col row : Nat) : Nat := col % Config.fbWidth + row % Config.fbHeight * Config.fbWidth

/-- The columns a sprite row draws, leftmost first: bit 7 of the byte is column 0 (rule R222). -/
def rowColumns (b : Byte) : List Nat := (List.range 8).filter fun col => b.getLsbD (7 - col)

/-- The target cells of a sprite whose top left pixel is at (px, py), row by row (rules R223 and R226). -/
def spriteCells (px py : Nat) : List Byte → List Nat
  | [] => []
  | b :: bs => (rowColumns b).map (fun col => cellIndex (px + col) py) ++ spriteCells px (py + 1) bs

end Sys2Proof.Machine
end

