-- ==== Sys2Proof/Machine/Flags.lean ====
section
/-! DEFINITION. The flag computations, all of which write VF (rule R38 of spec/10_state.md): carry, no-borrow, the bit
shifted out, I overflow and collision. -/

namespace Sys2Proof.Machine

/-- A flag as VF holds it: 1 or 0. -/
def flagByte (f : Bool) : Byte := if f then 1 else 0

/-- ADD Vx,Vy: the unsigned sum exceeds 255 (rule R158). -/
def carryOut (a b : Byte) : Bool := decide (255 < a.toNat + b.toNat)

/-- SUB and SUBN: no borrow in a − b, a ≥ b (rules R160 and R164). -/
def noBorrow (a b : Byte) : Bool := decide (b.toNat ≤ a.toNat)

/-- SHR: bit 0 before the shift (rule R162). -/
def shiftedOutRight (a : Byte) : Bool := a.getLsbD 0

/-- SHL: bit 7 before the shift (rule R166). -/
def shiftedOutLeft (a : Byte) : Bool := a.getLsbD 7

/-- ADD I,Vx: the sum leaves the 12-bit range (rule R192). -/
def addressOverflow (i : Word) (b : Byte) : Bool := decide (0xFFF < i.toNat + b.toNat)

/-- VF <- f (rule R38). -/
def State.setFlag (s : State) (f : Bool) : State := s.setV flagReg (flagByte f)

/-- V[x] <- r, and after that VF <- f: the flag is what VF holds when x = F (rule R152). -/
def State.setResultFlag (s : State) (x : RegIndex) (r : Byte) (f : Bool) : State := (s.setV x r).setFlag f

/-- XORs one pixel into its cell; a cell that was set is a collision, and collisions stick (rules R227 and R228). -/
def drawCell (acc : Framebuffer × Bool) (k : Nat) : Framebuffer × Bool :=
  (fbFlip acc.1 k, acc.2 || fbCell acc.1 k)

/-- The pixel loop of DRW over the sprite's target cells, from no collision (rules R223 and R227). -/
def drawCells (fb : Framebuffer) (ks : List Nat) : Framebuffer × Bool := ks.foldl drawCell (fb, false)

end Sys2Proof.Machine
end

