-- ==== Sys2Proof/Machine/AddressMemory.lean ====
section
/-! DEFINITION. The address register and the indexed memory operations (spec/43_address_memory.md). -/

namespace Sys2Proof.Machine

/-- LD I,nnn (rule R190). -/
def execLdI (nnn : Addr12) (s : State) : Host.Outcome State Fault Refusal :=
  perform s fun t => .ok (t.setI (zextAddr nnn))

/-- ADD I,Vx: I keeps 16 bits, VF = the sum leaves the 12-bit range (rule R192). -/
def execAddI (x : RegIndex) (s : State) : Host.Outcome State Fault Refusal :=
  perform s fun t => .ok ((t.setI (t.i + zextByte (t.getV x))).setFlag (addressOverflow t.i (t.getV x)))

/-- LD F,Vx (rule R194). -/
def execLdF (x : RegIndex) (s : State) : Host.Outcome State Fault Refusal :=
  perform s fun t => .ok (t.setI (glyphAddr (t.getV x)))

/-- LD B,Vx: the three digits at I, I + 1, I + 2, all addresses checked first (rule R196). -/
def execLdB (x : RegIndex) (s : State) : Host.Outcome State Fault Refusal :=
  perform s fun t => (writeBytes t.mem t.base (decimalDigits (t.getV x))).map t.setMem

/-- LD [I],Vx: V0 .. V[x] to I .. I + x, all addresses checked first; I is unchanged (rules R198 and R202). -/
def execStoreRegs (x : RegIndex) (s : State) : Host.Outcome State Fault Refusal :=
  perform s fun t => (writeBytes t.mem t.base (t.lowRegs x)).map t.setMem

/-- LD Vx,[I]: V0 .. V[x] from I .. I + x, all addresses checked first; I is unchanged (rules R200 and R202). -/
def execLoadRegs (x : RegIndex) (s : State) : Host.Outcome State Fault Refusal :=
  perform s fun t => (readBytes t.mem t.base (x.toNat + 1)).map t.setLowRegs

end Sys2Proof.Machine
end

