-- ==== Sys2Proof/Machine/Alu.lean ====
section
/-! DEFINITION. Register loads, the ALU and RND (spec/42_alu.md). Both operands are read before anything is written, and
the flag is written after the result (rule R152). -/

namespace Sys2Proof.Machine

/-- LD Vx,kk (rule R150). -/
def execLdImm (x : RegIndex) (kk : Byte) (s : State) : Host.Outcome State Fault Refusal :=
  perform s fun t => .ok (t.setV x kk)

/-- ADD Vx,kk: wraps, no flag (rule R151). -/
def execAddImm (x : RegIndex) (kk : Byte) (s : State) : Host.Outcome State Fault Refusal :=
  perform s fun t => .ok (t.setV x (t.getV x + kk))

/-- LD Vx,Vy (rule R153). -/
def execLdReg (x y : RegIndex) (s : State) : Host.Outcome State Fault Refusal :=
  perform s fun t => .ok (t.setV x (t.getV y))

/-- OR Vx,Vy: no flag (rule R154). -/
def execOrReg (x y : RegIndex) (s : State) : Host.Outcome State Fault Refusal :=
  perform s fun t => .ok (t.setV x (t.getV x ||| t.getV y))

/-- AND Vx,Vy: no flag (rule R155). -/
def execAndReg (x y : RegIndex) (s : State) : Host.Outcome State Fault Refusal :=
  perform s fun t => .ok (t.setV x (t.getV x &&& t.getV y))

/-- XOR Vx,Vy: no flag (rule R156). -/
def execXorReg (x y : RegIndex) (s : State) : Host.Outcome State Fault Refusal :=
  perform s fun t => .ok (t.setV x (t.getV x ^^^ t.getV y))

/-- ADD Vx,Vy: VF = carry (rule R158). -/
def execAddReg (x y : RegIndex) (s : State) : Host.Outcome State Fault Refusal :=
  perform s fun t => .ok (t.setResultFlag x (t.getV x + t.getV y) (carryOut (t.getV x) (t.getV y)))

/-- SUB Vx,Vy: VF = no borrow of V[x] − V[y] (rule R160). -/
def execSubReg (x y : RegIndex) (s : State) : Host.Outcome State Fault Refusal :=
  perform s fun t => .ok (t.setResultFlag x (t.getV x - t.getV y) (noBorrow (t.getV x) (t.getV y)))

/-- SHR Vx: VF = the bit shifted out; V[y] is not read (rules R162 and R171). -/
def execShr (x _y : RegIndex) (s : State) : Host.Outcome State Fault Refusal :=
  perform s fun t => .ok (t.setResultFlag x (t.getV x >>> 1) (shiftedOutRight (t.getV x)))

/-- SUBN Vx,Vy: VF = no borrow of V[y] − V[x] (rule R164). -/
def execSubnReg (x y : RegIndex) (s : State) : Host.Outcome State Fault Refusal :=
  perform s fun t => .ok (t.setResultFlag x (t.getV y - t.getV x) (noBorrow (t.getV y) (t.getV x)))

/-- SHL Vx: VF = the bit shifted out; V[y] is not read (rules R166 and R171). -/
def execShl (x _y : RegIndex) (s : State) : Host.Outcome State Fault Refusal :=
  perform s fun t => .ok (t.setResultFlag x (t.getV x <<< 1) (shiftedOutLeft (t.getV x)))

/-- RND Vx,kk: one draw of the random-byte input, masked (rules R180, R181 and R368). -/
def execRnd (x : RegIndex) (kk : Byte) (s : State) : Host.Outcome State Fault Refusal :=
  perform s fun t => .ok (t.setV x (maskedDraw (Config.randByte t.randDraws) kk)).countDraw

end Sys2Proof.Machine
end

