-- ==== Sys2Proof/Machine/ControlFlow.lean ====
section
/-! DEFINITION. Control flow (spec/41_control_flow.md) and SYS (rule R108 of spec/40_cycle.md). -/

namespace Sys2Proof.Machine

/-- SYS nnn: exactly a decode failure of its own word `0nnn` (rule R108). -/
def execSys (nnn : Addr12) (s : State) : Host.Outcome State Fault Refusal :=
  .next (decodeFailure (zextAddr nnn) s)

/-- RET (rules R120 and R121). -/
def execRet (s : State) : Host.Outcome State Fault Refusal :=
  perform s fun t => popPc s.pc t

/-- JP nnn (rule R122). -/
def execJp (nnn : Addr12) (s : State) : Host.Outcome State Fault Refusal :=
  perform s fun t => .ok (t.setPc (zextAddr nnn))

/-- CALL nnn: the return address is the advanced pc (rules R124 and R125). -/
def execCall (nnn : Addr12) (s : State) : Host.Outcome State Fault Refusal :=
  perform s fun t => (pushPc s.pc t).map fun u => u.setPc (zextAddr nnn)

/-- SE Vx,kk (rule R127). -/
def execSeImm (x : RegIndex) (kk : Byte) (s : State) : Host.Outcome State Fault Refusal :=
  perform s fun t => .ok (t.skipIf (t.getV x == kk))

/-- SNE Vx,kk (rule R128). -/
def execSneImm (x : RegIndex) (kk : Byte) (s : State) : Host.Outcome State Fault Refusal :=
  perform s fun t => .ok (t.skipIf (t.getV x != kk))

/-- SE Vx,Vy (rule R129). -/
def execSeReg (x y : RegIndex) (s : State) : Host.Outcome State Fault Refusal :=
  perform s fun t => .ok (t.skipIf (t.getV x == t.getV y))

/-- SNE Vx,Vy (rule R130). -/
def execSneReg (x y : RegIndex) (s : State) : Host.Outcome State Fault Refusal :=
  perform s fun t => .ok (t.skipIf (t.getV x != t.getV y))

/-- JP V0,nnn: the sum is not masked (rule R132). -/
def execJpV0 (nnn : Addr12) (s : State) : Host.Outcome State Fault Refusal :=
  perform s fun t => .ok (t.setPc (zextAddr nnn + zextByte (t.getV 0)))

end Sys2Proof.Machine
end

