-- ==== Sys2Proof/Machine/Display.lean ====
section
/-! DEFINITION. The framebuffer writer and the collision detector (spec/44_display.md). -/

namespace Sys2Proof.Machine

/-- CLS: every cell off, DIRTY set even when nothing changed (rule R220). -/
def execCls (s : State) : Host.Outcome State Fault Refusal :=
  perform s fun t => .ok (t.setFB fbClear)

/-- DRW Vx,Vy,n: the coordinates and all sprite bytes are read before VF, FB or DIRTY change; VF is the collision flag
(rules R223 to R230). -/
def execDrw (x y : RegIndex) (n : BitVec 4) (s : State) : Host.Outcome State Fault Refusal :=
  perform s fun t =>
    (readBytes t.mem t.base n.toNat).map fun rows =>
      let drawn := drawCells t.fb (spriteCells (t.getV x).toNat (t.getV y).toNat rows)
      (t.setFB drawn.1).setFlag drawn.2

end Sys2Proof.Machine
end

