-- ==== Sys2Proof/Machine/KeysTimers.lean ====
section
/-! DEFINITION. The key inputs and the timer registers (spec/45_keys_timers.md). -/

namespace Sys2Proof.Machine

/-- SKP Vx (rules R250 and R252). -/
def execSkp (x : RegIndex) (s : State) : Host.Outcome State Fault Refusal :=
  perform s fun t => (keyIndexOf (t.getV x)).map fun k => t.skipIf (t.keyDown k)

/-- SKNP Vx (rules R251 and R252). -/
def execSknp (x : RegIndex) (s : State) : Host.Outcome State Fault Refusal :=
  perform s fun t => (keyIndexOf (t.getV x)).map fun k => t.skipIf (!t.keyDown k)

/-- LD Vx,DT (rule R258). -/
def execLdVxDT (x : RegIndex) (s : State) : Host.Outcome State Fault Refusal :=
  perform s fun t => .ok (t.setV x t.dt)

/-- LD Vx,K: with no key pressed the default advance is undone and nothing else changes; otherwise some pressed key is
bound (rules R256 and R257). -/
def execLdVxK (x : RegIndex) (s : State) : Host.Outcome State Fault Refusal :=
  perform s fun t =>
    match chooseKey (Config.keyChoice t.keyPicks) t.pressedKeys with
    | none => .ok (t.setPc s.pc)
    | some k => .ok (t.setV x (BitVec.ofNat 8 k)).countPick

/-- LD DT,Vx (rule R259). -/
def execLdDTVx (x : RegIndex) (s : State) : Host.Outcome State Fault Refusal :=
  perform s fun t => .ok (t.setDT (t.getV x))

/-- LD ST,Vx (rule R260). -/
def execLdSTVx (x : RegIndex) (s : State) : Host.Outcome State Fault Refusal :=
  perform s fun t => .ok (t.setST (t.getV x))

end Sys2Proof.Machine
end

