-- ==== Sys2Proof/Machine/Step.lean ====
section
/-! DEFINITION. The step port: one fetch-decode-execute transition (rule R100 of spec/40_cycle.md; rule R361 of
spec/70_reset_and_hazards.md). -/

namespace Sys2Proof.Machine

/-- `Step()` (rule R100). A faulted block changes nothing (rule R307); a fetch out of range is a fault (rule R102); a word
that names no operation is a no-op with a diagnostic (rule R109). -/
def step (s : State) : Host.Outcome State Fault Refusal :=
  match s.fault with
  | some _ => .next s
  | none =>
    match fetchWord s with
    | .error r => .next (s.takeFault r)
    | .ok w =>
      match decode w with
      | .error _ => .next (decodeFailure w s)
      | .ok i => exec i s

/-- The state with an instruction word where `step` fetches next: FAULT cleared and, where no word fits at pc, pc at the
program base, so that the very next step runs it. The bits above `nbits` are 0; the word lies big-endian (rule R61). -/
def State.withFetchWord (s : State) (nbits w : Nat) : State :=
  let word : Word := BitVec.ofNat 16 (w % 2 ^ nbits)
  let pc : Word := if s.pc.toNat + 1 < Config.memSize then s.pc else 0x0200
  { s with pc := pc, fault := none, mem := s.mem.writeList pc.toNat [highByte word, lowByte word] }

end Sys2Proof.Machine
end

