-- ==== Sys2Proof/Machine/Ports.lean ====
section
/-! DEFINITION. The block's other ports (rule R360 of spec/70_reset_and_hazards.md): reset, load, tick, key_press,
key_release, dirty_clear and the read-only ones. Each is one atomic transaction between two steps (rule R370); none
looks at FAULT (rule R307). -/

namespace Sys2Proof.Machine

/-- Reset: every piece of the block's state at its value of rule R37 (rules R340 and R341). The model's two counters go
on, so that the draws after a reset are not those before it (log entries 3 and 4). -/
def portReset (s : State) : State :=
  { State.reset with randDraws := s.randDraws, keyPicks := s.keyPicks }

/-- What the load port answers the host (rules R303 and R343). RomSourceError arises before any byte reaches the port
(rule R344), so the port never answers it. -/
inductive LoadAnswer where
  | loaded
  | romTooLarge
  deriving DecidableEq, Repr

/-- `loadProgram(bytes)`: the answer to the host and the state after (rules R342, R343 and R367). -/
def portLoad (bytes : List Byte) (s : State) : LoadAnswer × State :=
  if bytes.length ≤ Config.maxRom then (.loaded, s.setMem (s.mem.writeList Config.progBase bytes))
  else (.romTooLarge, s)

/-- One timer down by 1, floored at 0 (rule R262). -/
def countDown (b : Byte) : Byte := if b = 0 then 0 else b - 1

/-- `tickTimers()` (rules R262 and R362). -/
def portTick (s : State) : State := { s with dt := countDown s.dt, st := countDown s.st }

/-- KEY[k] <- 1 (rule R366). An index above 15 has no encoding (decision D29). -/
def portKeyPress (k : BitVec 4) (s : State) : State := { s with key := s.key ||| BitVec.twoPow 16 k.toNat }

/-- KEY[k] <- 0 (rule R366). -/
def portKeyRelease (k : BitVec 4) (s : State) : State := { s with key := s.key &&& ~~~ BitVec.twoPow 16 k.toNat }

/-- DIRTY <- 0 (rule R364). -/
def portDirtyClear (s : State) : State := { s with dirty := false }

/-- The fb_read port: FB[k], k in 0 .. 2047 (rule R363). -/
def portFbRead (k : Fin 2048) (s : State) : Bool := fbCell s.fb k.val

/-- The dirty port (rule R364). -/
def portDirty (s : State) : Bool := s.dirty

/-- The sound port (rule R365). -/
def portSound (s : State) : Byte := s.st

/-- The diag port: every record so far, oldest first (rule R369). -/
def portDiag (s : State) : List DiagRecord := s.diag

/-- The number of a fault cause (rule R301). -/
def faultCode : Fault → Nat
  | .fetchRange => 1
  | .readRange => 2
  | .writeRange => 3
  | .reservedWrite => 4
  | .stackOverflow => 5
  | .stackUnderflow => 6
  | .keyIndex => 7

/-- The fault port: FAULT as (code, info, A), or none (rules R301 and R369). -/
def portFault (s : State) : Option (Nat × Nat × Word) :=
  s.fault.map fun f => (faultCode f.cause, f.info, f.addr)

/-- The host's transactions that can change the state, the step among them (rule R360). -/
inductive PortEvent where
  | reset
  | load (bytes : List Byte)
  | step
  | tick
  | keyPress (k : BitVec 4)
  | keyRelease (k : BitVec 4)
  | dirtyClear
  deriving DecidableEq, Repr

/-- One transaction (rules R360 and R370). -/
def portStep (e : PortEvent) (s : State) : Host.Outcome State Fault Refusal :=
  match e with
  | .reset => .next (portReset s)
  | .load bytes => .next (portLoad bytes s).2
  | .step => step s
  | .tick => .next (portTick s)
  | .keyPress k => .next (portKeyPress k s)
  | .keyRelease k => .next (portKeyRelease k s)
  | .dirtyClear => .next (portDirtyClear s)

/-- A session: the host's transactions one after the other, in any order it chooses (rule R370). -/
def runPorts : List PortEvent → State → Host.Outcome State Fault Refusal
  | [], s => .next s
  | e :: es, s =>
    match portStep e s with
    | .next t => runPorts es t
    | .fault r => .fault r
    | .refused r => .refused r

/-- The sessions the spec admits: a program is loaded only between reset and the first step, and at most once (rule R345).
`mayLoad` says whether a load may still come. A refused load leaves room for another (rule R303; log entry 8). -/
def admittedFrom (mayLoad : Bool) : List PortEvent → Bool
  | [] => true
  | .reset :: es => admittedFrom true es
  | .load bytes :: es => mayLoad && admittedFrom (decide (Config.maxRom < bytes.length)) es
  | .step :: es => admittedFrom false es
  | .tick :: es => admittedFrom mayLoad es
  | .keyPress _ :: es => admittedFrom mayLoad es
  | .keyRelease _ :: es => admittedFrom mayLoad es
  | .dirtyClear :: es => admittedFrom mayLoad es

end Sys2Proof.Machine
end

