-- ==== Sys2Proof/Safety.lean ====
section
/-! DEFINITION. The terms claims use: the model's invariant, a clean state (rules R33 and R307), the three ends of a run
(rule R347 of spec/70_reset_and_hazards.md), what a step leaves unchanged, and the spec's own tables about whole
instructions (rules R22, R25, R37, R87 and R301), written from the tables and not from the meanings. -/

namespace Sys2Proof.Machine

/-- Below the program base memory holds what construction put there: the font, and zero after it (rules R51, R52, R59). -/
def State.reservedIntact (s : State) : Prop :=
  ∀ a, a < Config.progBase → s.mem.read a = Memory.initial a

/-- The invariant of the model: memory in canonical form, and the reserved range as constructed. -/
def State.Inv (s : State) : Prop := s.mem.wf ∧ s.reservedIntact

/-- The table of rule R37: the value after reset of every piece of the block's state. -/
def State.hasResetValues (s : State) : Prop :=
  (∀ r, s.getV r = 0) ∧ s.i = 0 ∧ s.pc = 0x0200 ∧ s.sp = 0 ∧ (∀ k : Fin 16, s.stack[k] = 0) ∧
  s.dt = 0 ∧ s.st = 0 ∧ (∀ k, fbCell s.fb k = false) ∧ (∀ k, s.keyDown k = false) ∧
  s.dirty = false ∧ s.fault = none ∧ s.diag = [] ∧
  (∀ a, a < 0x50 → s.mem.read a = Config.font.getD a 0) ∧ (∀ a, 0x50 ≤ a → s.mem.read a = 0)

/-- A state claims may speak of: no fault (rule R307) and no diagnostic (decision D22). -/
def State.clean (s : State) : Prop := s.fault = none ∧ s.diag = []

/-- The operation the next step of an unfaulted block runs, if the word at pc is one. -/
def State.current (s : State) : Option Instr :=
  match fetchWord s with
  | .error _ => none
  | .ok w =>
    match decode w with
    | .error _ => none
    | .ok i => some i

/-- End (a) of rule R347: an unfaulted block at a JP to its own address. -/
def State.atSelfLoop (s : State) : Prop :=
  s.fault = none ∧ ∃ nnn, s.current = some (.jp nnn) ∧ zextAddr nnn = s.pc

/-- End (b) of rule R347: a fault, never a good end. -/
def State.faulted (s : State) : Prop := s.fault ≠ none

/-- End (c) of rule R347: an unfaulted block at an LD Vx,K with no key pressed. -/
def State.atKeyWait (s : State) : Prop :=
  s.fault = none ∧ (∃ x, s.current = some (.ldVxK x)) ∧ s.key = 0

/-! ### What a step leaves unchanged -/

/-- The pieces of state (spec/10_state.md), and the model's two counters. -/
inductive Part where
  | pc | v | i | sp | stack | dt | st | fb | dirty | key | fault | diag | mem | randDraws | keyPicks
  deriving DecidableEq, Repr

/-- A piece of state is the same before and after. The register file and memory are compared by reading each register and
each byte. -/
def Part.same (p : Part) (s t : State) : Prop :=
  match p with
  | .pc => t.pc = s.pc
  | .v => ∀ r, t.getV r = s.getV r
  | .i => t.i = s.i
  | .sp => t.sp = s.sp
  | .stack => t.stack = s.stack
  | .dt => t.dt = s.dt
  | .st => t.st = s.st
  | .fb => t.fb = s.fb
  | .dirty => t.dirty = s.dirty
  | .key => t.key = s.key
  | .fault => t.fault = s.fault
  | .diag => t.diag = s.diag
  | .mem => ∀ a, t.mem.read a = s.mem.read a
  | .randDraws => t.randDraws = s.randDraws
  | .keyPicks => t.keyPicks = s.keyPicks

/-- Every piece of state but the listed ones is unchanged. -/
def unchangedBut (parts : List Part) (s t : State) : Prop := ∀ p, p ∉ parts → p.same s t

/-! ### The spec's tables -/

/-- The words of rule R87: those of no operation, and the SYS words, which are decode failures by rule R108. -/
def isDecodeFailure (w : Word) : Prop :=
  (opField w = 0x0 ∧ nnnField w ≠ 0x0E0 ∧ nnnField w ≠ 0x0EE) ∨
  ((opField w = 0x5 ∨ opField w = 0x9) ∧ nField w ≠ 0) ∨
  (opField w = 0x8 ∧ nField w ∈ [0x8, 0x9, 0xA, 0xB, 0xC, 0xD, 0xF]) ∨
  (opField w = 0xE ∧ kkField w ∉ [0x9E, 0xA1]) ∨
  (opField w = 0xF ∧ kkField w ∉ [0x07, 0x0A, 0x15, 0x18, 0x1E, 0x29, 0x33, 0x55, 0x65])

/-- The registers an instruction reads (the "reads" column of rule R22). -/
def readsReg (i : Instr) (r : RegIndex) : Prop :=
  match i with
  | .cls | .ret | .sys _ | .jp _ | .call _ | .ldI _ => False
  | .seImm x _ | .sneImm x _ | .addImm x _ => r = x
  | .seReg x y | .sneReg x y => r = x ∨ r = y
  | .ldImm _ _ | .rnd _ _ | .ldVxDT _ | .ldVxK _ | .loadRegs _ => False
  | .ldReg _ y => r = y
  | .orReg x y | .andReg x y | .xorReg x y | .addReg x y | .subReg x y | .subnReg x y => r = x ∨ r = y
  | .shr x _ | .shl x _ => r = x
  | .jpV0 _ => r = 0
  | .drw x y _ => r = x ∨ r = y
  | .skp x | .sknp x | .ldDTVx x | .ldSTVx x | .addI x | .ldF x | .ldB x => r = x
  | .storeRegs x => r ≤ x

/-- The registers an instruction may write (the "writes" column of rule R22). -/
def writesReg (i : Instr) (r : RegIndex) : Prop :=
  match i with
  | .cls | .ret | .sys _ | .jp _ | .call _ | .ldI _ | .jpV0 _ => False
  | .seImm _ _ | .sneImm _ _ | .seReg _ _ | .sneReg _ _ | .skp _ | .sknp _ => False
  | .ldImm x _ | .addImm x _ | .ldReg x _ | .orReg x _ | .andReg x _ | .xorReg x _ => r = x
  | .addReg x _ | .subReg x _ | .subnReg x _ | .shr x _ | .shl x _ => r = x ∨ r = flagReg
  | .rnd x _ | .ldVxDT x | .ldVxK x => r = x
  | .drw _ _ _ | .addI _ => r = flagReg
  | .ldDTVx _ | .ldSTVx _ | .ldF _ | .ldB _ | .storeRegs _ => False
  | .loadRegs x => r ≤ x

/-- The pieces of state besides pc and FAULT that an instruction may write: V by rule R22, I by R23, SP and STACK by R26
and R27, DT and ST by R28, FB and DIRTY by R29 and R30, DIAG by R33 and R108, MEM by R53, and the model's counters. KEY is
written by none (rule R31). -/
def partsWritten (i : Instr) : List Part :=
  match i with
  | .cls => [.fb, .dirty]
  | .ret => [.sp]
  | .sys _ => [.diag]
  | .call _ => [.sp, .stack]
  | .jp _ | .jpV0 _ | .seImm _ _ | .sneImm _ _ | .seReg _ _ | .sneReg _ _ | .skp _ | .sknp _ => []
  | .ldImm _ _ | .addImm _ _ | .ldReg _ _ | .orReg _ _ | .andReg _ _ | .xorReg _ _ => [.v]
  | .addReg _ _ | .subReg _ _ | .subnReg _ _ | .shr _ _ | .shl _ _ | .ldVxDT _ | .loadRegs _ => [.v]
  | .rnd _ _ => [.v, .randDraws]
  | .ldVxK _ => [.v, .keyPicks]
  | .drw _ _ _ => [.v, .fb, .dirty]
  | .ldI _ | .ldF _ => [.i]
  | .addI _ => [.i, .v]
  | .ldDTVx _ => [.dt]
  | .ldSTVx _ => [.st]
  | .ldB _ | .storeRegs _ => [.mem]

/-- The fault of reading n bytes from address a, in closed form: the lowest address of 0x1000 or more (rules R57, R301). -/
def ruleReadFault (a n : Nat) : Option Raised :=
  if n ≠ 0 ∧ 0x1000 < a + n then some ⟨.readRange, max a 0x1000⟩ else none

/-- The fault of writing n ≥ 1 bytes from address a, in closed form (rules R59, R60, R301 and R305). -/
def ruleWriteFault (a n : Nat) : Option Raised :=
  if a < 0x200 then some ⟨.reservedWrite, a⟩
  else if 0x1000 < a + n then some ⟨.writeRange, max a 0x1000⟩
  else none

/-- The fault an instruction raises (the table of rule R301, every row but FetchRange, which is the fetch's). -/
def ruleFault (i : Instr) (s : State) : Option Raised :=
  match i with
  | .drw _ _ n => ruleReadFault s.i.toNat n.toNat
  | .loadRegs x => ruleReadFault s.i.toNat (x.toNat + 1)
  | .ldB _ => ruleWriteFault s.i.toNat 3
  | .storeRegs x => ruleWriteFault s.i.toNat (x.toNat + 1)
  | .call _ => if s.sp = 16 then some ⟨.stackOverflow, s.pc.toNat⟩ else none
  | .ret => if s.sp = 0 then some ⟨.stackUnderflow, s.pc.toNat⟩ else none
  | .skp x | .sknp x => if 15 < (s.getV x).toNat then some ⟨.keyIndex, (s.getV x).toNat⟩ else none
  | .cls | .sys _ | .jp _ | .seImm _ _ | .sneImm _ _ | .seReg _ _ | .ldImm _ _ | .addImm _ _ => none
  | .ldReg _ _ | .orReg _ _ | .andReg _ _ | .xorReg _ _ | .addReg _ _ | .subReg _ _ | .shr _ _ => none
  | .subnReg _ _ | .shl _ _ | .sneReg _ _ | .ldI _ | .jpV0 _ | .rnd _ _ | .ldVxDT _ | .ldVxK _ => none
  | .ldDTVx _ | .ldSTVx _ | .addI _ | .ldF _ => none

/-- Where a skip leaves pc: A + 4 when its condition holds, A + 2 otherwise (rule R25). -/
def ruleSkipPc (s : State) (c : Prop) [Decidable c] : Word := if c then s.pc + 4 else s.pc + 2

/-- pc after an instruction that does not fault (the table of rule R25), A being pc before it. RET's row is read for
SP > 0. -/
def rulePc (i : Instr) (s : State) : Word :=
  match i with
  | .seImm x kk => ruleSkipPc s (s.getV x = kk)
  | .sneImm x kk => ruleSkipPc s (s.getV x ≠ kk)
  | .seReg x y => ruleSkipPc s (s.getV x = s.getV y)
  | .sneReg x y => ruleSkipPc s (s.getV x ≠ s.getV y)
  | .skp x => ruleSkipPc s (s.key.getLsbD (s.getV x).toNat = true)
  | .sknp x => ruleSkipPc s (s.key.getLsbD (s.getV x).toNat = false)
  | .jp nnn | .call nnn => BitVec.ofNat 16 nnn.toNat
  | .jpV0 nnn => BitVec.ofNat 16 (nnn.toNat + (s.getV 0).toNat)
  | .ret => s.stack.toList.getD (s.sp.val - 1) 0
  | .ldVxK _ => if s.key = 0 then s.pc else s.pc + 2
  | .cls | .sys _ | .ldImm _ _ | .addImm _ _ | .ldReg _ _ | .orReg _ _ | .andReg _ _ | .xorReg _ _ => s.pc + 2
  | .addReg _ _ | .subReg _ _ | .shr _ _ | .subnReg _ _ | .shl _ _ | .ldI _ | .rnd _ _ | .drw _ _ _ => s.pc + 2
  | .ldVxDT _ | .ldDTVx _ | .ldSTVx _ | .addI _ | .ldF _ | .ldB _ | .storeRegs _ | .loadRegs _ => s.pc + 2

/-- The cell k is a target of a 1 bit of the n-row sprite at I, drawn at (V[x], V[y]) (rules R222 and R226). -/
def drawnAt (s : State) (x y : RegIndex) (n : BitVec 4) (k : Nat) : Prop :=
  ∃ row col, row < n.toNat ∧ col < 8 ∧ (s.mem.read (s.i.toNat + row)).getLsbD (7 - col) = true ∧
    k = ((s.getV x).toNat + col) % 64 + ((s.getV y).toNat + row) % 32 * 64

/-- The byte at address a after LD [I],Vx that does not fault: V[a - I] inside I .. I + x, else as before (rule R198). -/
def byteAfterStore (s : State) (x : RegIndex) (a : Nat) : Byte :=
  if s.i.toNat ≤ a ∧ a ≤ s.i.toNat + x.toNat then s.getV (BitVec.ofNat 4 (a - s.i.toNat)) else s.mem.read a

/-- The byte at address a after LD B,Vx that does not fault: a digit of V[x] at I, I + 1 and I + 2, else as before (rule
R196). -/
def byteAfterDecimal (s : State) (x : RegIndex) (a : Nat) : Byte :=
  if a = s.i.toNat then BitVec.ofNat 8 ((s.getV x).toNat / 100)
  else if a = s.i.toNat + 1 then BitVec.ofNat 8 ((s.getV x).toNat / 10 % 10)
  else if a = s.i.toNat + 2 then BitVec.ofNat 8 ((s.getV x).toNat % 10)
  else s.mem.read a

/-- Instructions executed one after the other, without fetching them. -/
def execAll : List Instr → State → Host.Outcome State Fault Refusal
  | [], s => .next s
  | i :: is, s =>
    match exec i s with
    | .next t => execAll is t
    | .fault r => .fault r
    | .refused r => .refused r

end Sys2Proof.Machine
end

