-- ==== Sys2Proof/Certificates/Slice0/Obligations.lean ====
section
/-! DEFINITION. The statements for the provers. Each docstring names the rules of spec/ a statement formalises. A
statement about an instruction says where exec answers a next state, what that state holds, and what is unchanged
(`unchangedBut`: every piece of state but the listed ones). Where a clause rests on a decision of the spec's own (D<n> of
spec/92_eei_decisions.md), on a rule the spec marks as derived, or on a choice of the model's, the docstring names it. -/

open Sys2Proof Sys2Proof.Machine

/-! ### Encoding -/

/-- Rules R81 and R84: decoding the word of a well-formed instruction gives it back, every operand at every value. The
selector values are the spec's own choice (D2, D3). -/
def Obligations.DecodeOfEncode : Prop :=
  ∀ i : Instr, i.wellFormed = true → decode (encode i) = .ok i

/-- Rules R84 to R86: a word that decodes is the word of the instruction it decodes to, and that is well formed
(selector values: D2, D3). -/
def Obligations.EncodeOfDecode : Prop :=
  ∀ (w : Word) (i : Instr), decode w = .ok i → i.wellFormed = true ∧ encode i = w

/-- Rules R85 to R87: outside selector 0 the decoder rejects exactly the words of rule R87's list; in selector 0 every
word is CLS, RET or SYS (strict patterns: D3; SYS: D4). -/
def Obligations.RejectedWordsAreExactly : Prop :=
  ∀ w : Word, (∃ e, decode w = .error e) ↔ isDecodeFailure w ∧ opField w ≠ 0

/-- Words written out bit by bit from the patterns of rule R84 decode to the instructions they stand for (D2). -/
def Obligations.SampleWordsDecode : Prop :=
  decode 0b0000000011100000 = .ok .cls ∧
  decode 0b0010001100000000 = .ok (.call 0x300) ∧
  decode 0b0111000100000010 = .ok (.addImm 0x1 0x02) ∧
  decode 0b1000000100100101 = .ok (.subReg 0x1 0x2) ∧
  decode 0b1010001011110000 = .ok (.ldI 0x2F0) ∧
  decode 0b1101000000010101 = .ok (.drw 0x0 0x1 0x5) ∧
  decode 0b1110010010100001 = .ok (.sknp 0x4) ∧
  decode 0b1111010101010101 = .ok (.storeRegs 0x5) ∧
  decode 0b1000000100101000 = .error (.selector8 0x8)

/-! ### The step -/

/-- Rules R100, R102, R104 and R106: an unfaulted block whose two bytes at pc are in memory and decode to an instruction
runs exec of it, and exec makes the default advance itself. -/
def Obligations.StepRunsDecodedInstruction : Prop :=
  ∀ (s : State) (i : Instr), s.fault = none → s.pc.toNat + 1 < 0x1000 →
    decode (s.mem.read s.pc.toNat ++ s.mem.read (s.pc.toNat + 1)) = .ok i → step s = exec i s

/-- The fetch of rule R102: FetchRange at A when A + 1 is outside memory, with nothing but FAULT changed (the spec's own
decision D5); otherwise the big-endian word, from any address, odd or even (D15), font block and reserved range
included. -/
def Obligations.FetchRangeAndByteOrder : Prop :=
  ∀ s : State,
    (0x1000 ≤ s.pc.toNat + 1 → s.fault = none →
      step s = .next { s with fault := some ⟨.fetchRange, s.pc.toNat, s.pc⟩ }) ∧
    (s.pc.toNat + 1 < 0x1000 → ∃ w, fetchWord s = .ok w ∧
      w.toNat = (s.mem.read s.pc.toNat).toNat * 256 + (s.mem.read (s.pc.toNat + 1)).toNat)

/-- Rules R108 to R110: a decode failure, SYS included, leaves pc at A + 2 and appends (word, A) to DIAG; nothing else
changes, and it raises no fault. That SYS is one is decision D4, which address is recorded is D30. -/
def Obligations.DecodeFailureIsNoOpWithRecord : Prop :=
  ∀ (s : State) (w : Word), s.fault = none → fetchWord s = .ok w → isDecodeFailure w →
    ∃ t, step s = .next t ∧ t.pc = s.pc + 2 ∧ t.diag = s.diag ++ [⟨w, s.pc⟩] ∧ unchangedBut [.pc, .diag] s t

/-- The words that are decode failures are exactly those of rule R87's list: a step of an unfaulted block appends a
record exactly when its word is one of them (decisions D3, D4, D22). -/
def Obligations.RecordExactlyOnDecodeFailure : Prop :=
  ∀ (s t : State) (w : Word), s.fault = none → fetchWord s = .ok w → step s = .next t →
    (t.diag = s.diag ++ [⟨w, s.pc⟩] ↔ isDecodeFailure w) ∧ (t.diag = s.diag ↔ ¬ isDecodeFailure w)

/-- Rule R108, the spec's own decision D4: SYS nnn changes pc and DIAG alone and never transfers control. -/
def Obligations.SysIsNoOpWithRecord : Prop :=
  ∀ (nnn : Addr12) (s : State), ∃ t, exec (.sys nnn) s = .next t ∧ t.pc = s.pc + 2 ∧
    t.diag = s.diag ++ [⟨BitVec.ofNat 16 nnn.toNat, s.pc⟩] ∧ unchangedBut [.pc, .diag] s t

/-- Rules R11 and R300: every transaction of every session answers a next state; no instruction is refused, and a fault
is a next state whose FAULT is set (log entry 1). -/
def Obligations.EverySessionContinues : Prop :=
  ∀ (es : List PortEvent) (s : State), ∃ t, runPorts es s = .next t

/-- Rule R306: an instruction that raises a fault commits no change at all except FAULT, which records the fetch
address; an instruction that raises none leaves FAULT as it was. Faults are the spec's own decision D9. -/
def Obligations.FaultEntryIsPrecise : Prop :=
  ∀ (i : Instr) (s t : State), exec i s = .next t →
    match ruleFault i s with
    | some r => t = { s with fault := some ⟨r.cause, r.info, s.pc⟩ }
    | none => t.fault = s.fault

/-- The table of rule R301: a step of an unfaulted block raises a fault exactly when the fetch is out of range or the
fetched instruction meets its row's condition, with the row's info and the fetch address (decisions D5 to D9, D31). -/
def Obligations.StepFaultsByTheTable : Prop :=
  ∀ (s t : State) (f : FaultRecord), s.fault = none → step s = .next t →
    (t.fault = some f ↔
      (0x1000 ≤ s.pc.toNat + 1 ∧ f = ⟨.fetchRange, s.pc.toNat, s.pc⟩) ∨
      ∃ w i r, fetchWord s = .ok w ∧ decode w = .ok i ∧ ruleFault i s = some r ∧ f = ⟨r.cause, r.info, s.pc⟩)

/-- Rule R307: while FAULT is not none a step changes nothing; no transaction but reset clears it, reset does; ticks,
key events and the dirty clear still act (the spec's own decision D9). -/
def Obligations.FaultedBlockIsHalted : Prop :=
  ∀ s : State, s.fault ≠ none →
    step s = .next s ∧
    (∀ e t, portStep e s = .next t → (t.fault = none ↔ e = .reset)) ∧
    (∀ e t, portStep e s = .next t → e ≠ .reset → t.fault = s.fault) ∧
    (∃ t, portStep .tick s = .next t ∧ t.dt.toNat = s.dt.toNat - 1 ∧ t.st.toNat = s.st.toNat - 1) ∧
    (∀ k, ∃ t, portStep (.keyPress k) s = .next t ∧ t.key.getLsbD k.toNat = true) ∧
    (∀ k, ∃ t, portStep (.keyRelease k) s = .next t ∧ t.key.getLsbD k.toNat = false) ∧
    (∃ t, portStep .dirtyClear s = .next t ∧ t.dirty = false)

/-- The table of rule R25, which the spec derives: pc after every instruction and every decode failure, all sums modulo
2^16. -/
def Obligations.PcAfterEveryInstruction : Prop :=
  (∀ (i : Instr) (s t : State), exec i s = .next t →
    t.pc = if (ruleFault i s).isSome then s.pc else rulePc i s) ∧
  (∀ (s t : State) (w : Word), s.fault = none → fetchWord s = .ok w → isDecodeFailure w → step s = .next t →
    t.pc = s.pc + 2) ∧
  (∀ s t : State, s.fault = none → 0x1000 ≤ s.pc.toNat + 1 → step s = .next t → t.pc = s.pc)

/-! ### Whole-machine rules -/

/-- The model's invariant holds at reset (rules R37 and R51): canonical memory, the reserved range as constructed. -/
def Obligations.ResetMeetsInvariant : Prop := State.reset.Inv

/-- Rules R52 and R59: a step never changes the font block (the document's invariant) or the rest of the reserved range
(decision D6), and keeps the model's memory canonical (log entry 5). -/
def Obligations.StepKeepsInvariant : Prop :=
  ∀ s t : State, s.Inv → step s = .next t → t.Inv

/-- Rules R52, R342 and R367: so does every session of transactions, program loads and resets among them. -/
def Obligations.SessionKeepsInvariant : Prop :=
  ∀ (es : List PortEvent) (s t : State), s.Inv → runPorts es s = .next t → t.Inv

/-- Rules R37 and R340: after reset every piece of the block's state has the value of rule R37's table, in State.reset and
after the reset transaction from every state, faulted or not. DIRTY, FAULT and DIAG are decisions D17, D9 and D22, the
font's bytes D18 (log entry 2). The model's own two counters go on over a reset transaction (log entries 3 and 4). -/
def Obligations.ResetValues : Prop :=
  State.reset.hasResetValues ∧
  ∀ s : State, ∃ t, portStep .reset s = .next t ∧ t.hasResetValues ∧
    t.randDraws = s.randDraws ∧ t.keyPicks = s.keyPicks

/-- Rule R22, which the spec derives: an instruction writes no register outside its "writes" column, and a register
outside its "reads" column has no influence on anything else: the next states agree but for that register. The second
clause compares two runs on the same draw and the same choice of key: both take `Config.randByte` and
`Config.keyChoice` at one value of the model's own counters (log entries 3 and 4, DESIGN CHOICE). -/
def Obligations.RegisterReadWriteMatrix : Prop :=
  (∀ (i : Instr) (s t : State) (r : RegIndex), exec i s = .next t → ¬ writesReg i r → t.getV r = s.getV r) ∧
  (∀ (i : Instr) (s t t' : State) (r : RegIndex) (b : Byte), ¬ readsReg i r →
    exec i s = .next t → exec i (s.setV r b) = .next t' →
    unchangedBut [.v] t t' ∧ ∀ q, q ≠ r → t'.getV q = t.getV q)

/-- Rules R23, R26 to R31, R33 and R53: a piece of state changes only by the instructions the spec names for it; no
instruction writes KEY. pc and FAULT have statements of their own. Rule R53 is one the spec derives. -/
def Obligations.StateChangesOnlyByNamedInstructions : Prop :=
  ∀ (i : Instr) (s t : State), exec i s = .next t → unchangedBut (.pc :: .fault :: partsWritten i) s t

/-- The memory's canonical form (log entry 5): two memories in it that read the same everywhere are equal. -/
def Obligations.CanonicalMemoriesAreEqual : Prop :=
  ∀ m n : Memory, m.wf → n.wf → (∀ a, m.read a = n.read a) → m = n

/-! ### Control flow -/

/-- Rules R120 and R121: RET pops the return address, the popped slot keeping its value; with SP = 0 it raises
StackUnderflow, the spec's own decision D7. -/
def Obligations.RetPopsReturnAddress : Prop :=
  ∀ s : State,
    (∀ h : 0 < s.sp.val, ∃ t, exec .ret s = .next t ∧ t.sp.val = s.sp.val - 1 ∧
      t.pc = s.stack[s.sp.val - 1]'(by omega) ∧ unchangedBut [.pc, .sp] s t) ∧
    (s.sp = 0 → exec .ret s = .next { s with fault := some ⟨.stackUnderflow, s.pc.toNat, s.pc⟩ })

/-- Rules R124 and R125: CALL pushes A + 2 and jumps; with SP = 16 it raises StackOverflow, the spec's own decision D7.
-/
def Obligations.CallPushesAndJumps : Prop :=
  ∀ (nnn : Addr12) (s : State),
    (∀ h : s.sp.val < 16, ∃ t, exec (.call nnn) s = .next t ∧ t.sp.val = s.sp.val + 1 ∧
      t.stack[s.sp.val] = s.pc + 2 ∧ t.pc.toNat = nnn.toNat ∧
      (∀ k : Fin 16, k.val ≠ s.sp.val → t.stack[k] = s.stack[k]) ∧ unchangedBut [.pc, .sp, .stack] s t) ∧
    (s.sp = 16 → exec (.call nnn) s = .next { s with fault := some ⟨.stackOverflow, s.pc.toNat, s.pc⟩ })

/-- Rule R126, which the spec derives: as many RETs as there were nested CALLs bring pc to the instruction after the
first CALL, for 1 through 16 nested calls. -/
def Obligations.NestedCallsReturn : Prop :=
  ∀ (targets : List Addr12) (s : State), targets ≠ [] → s.sp.val + targets.length ≤ 16 →
    ∃ t u, execAll (targets.map .call) s = .next t ∧
      execAll (List.replicate targets.length .ret) t = .next u ∧
      u.pc = s.pc + 2 ∧ u.sp = s.sp ∧ unchangedBut [.pc, .stack] s u

/-- Rule R122: JP nnn goes to nnn, and nothing else changes. -/
def Obligations.JumpSetsPc : Prop :=
  ∀ (nnn : Addr12) (s : State), ∃ t, exec (.jp nnn) s = .next t ∧ t.pc.toNat = nnn.toNat ∧ unchangedBut [.pc] s t

/-- Rule R132: JP V0,nnn goes to nnn + V0, and nothing else changes. That the sum is not masked is the spec's own
decision D16. -/
def Obligations.JumpWithOffset : Prop :=
  ∀ (nnn : Addr12) (s : State),
    ∃ t, exec (.jpV0 nnn) s = .next t ∧ t.pc.toNat = nnn.toNat + (s.getV 0).toNat ∧ unchangedBut [.pc] s t

/-- Rules R127 to R130: a skip whose condition holds leaves pc at A + 4, any other at A + 2; nothing else changes. -/
def Obligations.CompareSkips : Prop :=
  ∀ (x y : RegIndex) (kk : Byte) (s : State),
    (∃ t, exec (.seImm x kk) s = .next t ∧ t.pc = (if s.getV x = kk then s.pc + 4 else s.pc + 2) ∧
      unchangedBut [.pc] s t) ∧
    (∃ t, exec (.sneImm x kk) s = .next t ∧ t.pc = (if s.getV x ≠ kk then s.pc + 4 else s.pc + 2) ∧
      unchangedBut [.pc] s t) ∧
    (∃ t, exec (.seReg x y) s = .next t ∧ t.pc = (if s.getV x = s.getV y then s.pc + 4 else s.pc + 2) ∧
      unchangedBut [.pc] s t) ∧
    (∃ t, exec (.sneReg x y) s = .next t ∧ t.pc = (if s.getV x ≠ s.getV y then s.pc + 4 else s.pc + 2) ∧
      unchangedBut [.pc] s t)

/-! ### Loads and the ALU -/

/-- Rules R150, R151 and R153: the load and add-immediate forms; ADD Vx,kk wraps and writes no flag. -/
def Obligations.LoadsAndAddImmediate : Prop :=
  ∀ (x y : RegIndex) (kk : Byte) (s : State),
    (∃ t, exec (.ldImm x kk) s = .next t ∧ t.pc = s.pc + 2 ∧
      (∀ r, t.getV r = if r = x then kk else s.getV r) ∧ unchangedBut [.pc, .v] s t) ∧
    (∃ t, exec (.addImm x kk) s = .next t ∧ t.pc = s.pc + 2 ∧
      (∀ r, t.getV r = if r = x then BitVec.ofNat 8 ((s.getV x).toNat + kk.toNat) else s.getV r) ∧
      unchangedBut [.pc, .v] s t) ∧
    (∃ t, exec (.ldReg x y) s = .next t ∧ t.pc = s.pc + 2 ∧
      (∀ r, t.getV r = if r = x then s.getV y else s.getV r) ∧ unchangedBut [.pc, .v] s t)

/-- Rules R154 to R156: OR, AND and XOR, bit by bit; VF is not written unless x = F. -/
def Obligations.LogicalOperations : Prop :=
  ∀ (x y : RegIndex) (s : State),
    (∃ t, exec (.orReg x y) s = .next t ∧ t.pc = s.pc + 2 ∧ (∀ r, r ≠ x → t.getV r = s.getV r) ∧
      (∀ k, (t.getV x).getLsbD k = ((s.getV x).getLsbD k || (s.getV y).getLsbD k)) ∧ unchangedBut [.pc, .v] s t) ∧
    (∃ t, exec (.andReg x y) s = .next t ∧ t.pc = s.pc + 2 ∧ (∀ r, r ≠ x → t.getV r = s.getV r) ∧
      (∀ k, (t.getV x).getLsbD k = ((s.getV x).getLsbD k && (s.getV y).getLsbD k)) ∧ unchangedBut [.pc, .v] s t) ∧
    (∃ t, exec (.xorReg x y) s = .next t ∧ t.pc = s.pc + 2 ∧ (∀ r, r ≠ x → t.getV r = s.getV r) ∧
      (∀ k, (t.getV x).getLsbD k = ((s.getV x).getLsbD k ^^ (s.getV y).getLsbD k)) ∧ unchangedBut [.pc, .v] s t)

/-- Rule R158, in the order rule R152 quotes for it: ADD Vx,Vy writes the sum modulo 256, then VF = 1 when the unsigned
sum exceeds 255 and 0 otherwise; the flag is what VF holds at the end when x = F. -/
def Obligations.AddWithCarry : Prop :=
  ∀ (x y : RegIndex) (s : State), ∃ t, exec (.addReg x y) s = .next t ∧ t.pc = s.pc + 2 ∧
    (∀ r, t.getV r =
      if r = flagReg then (if 255 < (s.getV x).toNat + (s.getV y).toNat then 1 else 0)
      else if r = x then BitVec.ofNat 8 (((s.getV x).toNat + (s.getV y).toNat) % 256)
      else s.getV r) ∧
    unchangedBut [.pc, .v] s t

/-- Rules R152, R160 and R164: SUB and SUBN write the difference modulo 256, then VF = 1 when there is no borrow. That
the flag stands when x = F is decision D14; SUBN's formula is one the spec derives. -/
def Obligations.SubtractWithBorrowFlag : Prop :=
  ∀ (x y : RegIndex) (s : State),
    (∃ t, exec (.subReg x y) s = .next t ∧ t.pc = s.pc + 2 ∧
      (∀ r, t.getV r =
        if r = flagReg then (if (s.getV y).toNat ≤ (s.getV x).toNat then 1 else 0)
        else if r = x then BitVec.ofNat 8 ((256 + (s.getV x).toNat - (s.getV y).toNat) % 256)
        else s.getV r) ∧
      unchangedBut [.pc, .v] s t) ∧
    (∃ t, exec (.subnReg x y) s = .next t ∧ t.pc = s.pc + 2 ∧
      (∀ r, t.getV r =
        if r = flagReg then (if (s.getV x).toNat ≤ (s.getV y).toNat then 1 else 0)
        else if r = x then BitVec.ofNat 8 ((256 + (s.getV y).toNat - (s.getV x).toNat) % 256)
        else s.getV r) ∧
      unchangedBut [.pc, .v] s t)

/-- Rules R152, R162, R166 and R171: SHR and SHL shift V[x] by one, whatever y is, then VF = the bit shifted out (the
order when x = F is decision D14, that y is not read D26). -/
def Obligations.ShiftsByOne : Prop :=
  ∀ (x y : RegIndex) (s : State),
    (∃ t, exec (.shr x y) s = .next t ∧ t.pc = s.pc + 2 ∧
      (∀ r, t.getV r =
        if r = flagReg then BitVec.ofNat 8 ((s.getV x).toNat % 2)
        else if r = x then BitVec.ofNat 8 ((s.getV x).toNat / 2)
        else s.getV r) ∧
      unchangedBut [.pc, .v] s t) ∧
    (∃ t, exec (.shl x y) s = .next t ∧ t.pc = s.pc + 2 ∧
      (∀ r, t.getV r =
        if r = flagReg then BitVec.ofNat 8 ((s.getV x).toNat / 128)
        else if r = x then BitVec.ofNat 8 ((s.getV x).toNat * 2 % 256)
        else s.getV r) ∧
      unchangedBut [.pc, .v] s t)

/-- Rules R180, R181 and R368: RND takes one draw, whatever its value, and writes it masked by kk. The draw is the free
value `Config.randByte` at the model's own counter (log entry 3), which goes up by one. -/
def Obligations.RandomAndMask : Prop :=
  ∀ (x : RegIndex) (kk : Byte) (s : State), ∃ t, exec (.rnd x kk) s = .next t ∧ t.pc = s.pc + 2 ∧
    (∀ r, r ≠ x → t.getV r = s.getV r) ∧
    (∀ k, (t.getV x).getLsbD k = ((Config.randByte s.randDraws).getLsbD k && kk.getLsbD k)) ∧
    t.randDraws = s.randDraws + 1 ∧ unchangedBut [.pc, .v, .randDraws] s t

/-! ### Address register and memory -/

/-- Rule R190: LD I,nnn. -/
def Obligations.SetAddressRegister : Prop :=
  ∀ (nnn : Addr12) (s : State), ∃ t, exec (.ldI nnn) s = .next t ∧ t.pc = s.pc + 2 ∧ t.i.toNat = nnn.toNat ∧
    unchangedBut [.pc, .i] s t

/-- Rules R192 and R194: ADD I,Vx with its overflow flag, I kept to 16 bits and VF = 0 without overflow (the spec's own
decision D10), and LD F,Vx without a mask (D28). -/
def Obligations.AddressIncrementAndFontLookup : Prop :=
  ∀ (x : RegIndex) (s : State),
    (∃ t, exec (.addI x) s = .next t ∧ t.pc = s.pc + 2 ∧
      t.i.toNat = (s.i.toNat + (s.getV x).toNat) % 65536 ∧
      (∀ r, t.getV r =
        if r = flagReg then (if 0xFFF < s.i.toNat + (s.getV x).toNat then 1 else 0) else s.getV r) ∧
      unchangedBut [.pc, .i, .v] s t) ∧
    (∃ t, exec (.ldF x) s = .next t ∧ t.pc = s.pc + 2 ∧ t.i.toNat = (s.getV x).toNat * 5 ∧
      unchangedBut [.pc, .i] s t)

/-- Rules R52, R194 and R195: where the reserved range is as constructed, LD F,Vx with V[x] at most 15 leaves I at the
five bytes of glyph V[x] of the FONT parameter, whatever its bytes (D18; log entry 2). -/
def Obligations.FontGlyphAtI : Prop :=
  ∀ (x : RegIndex) (s : State), s.Inv → (s.getV x).toNat ≤ 15 →
    ∃ t, exec (.ldF x) s = .next t ∧
      ∀ k, k < 5 → t.mem.read (t.i.toNat + k) = Config.font.getD ((s.getV x).toNat * 5 + k) 0

/-- Rule R196: LD B,Vx writes hundreds, tens and ones at I, I + 1 and I + 2 when all three may be written; otherwise it
raises the fault of the lowest bad address and writes none (the spec's own decisions D5 and D6). -/
def Obligations.DecimalSplit : Prop :=
  ∀ (x : RegIndex) (s : State),
    (0x200 ≤ s.i.toNat → s.i.toNat + 2 < 0x1000 → ∃ t, exec (.ldB x) s = .next t ∧ t.pc = s.pc + 2 ∧
      (t.mem.read s.base).toNat = (s.getV x).toNat / 100 ∧
      (t.mem.read (s.base + 1)).toNat = (s.getV x).toNat / 10 % 10 ∧
      (t.mem.read (s.base + 2)).toNat = (s.getV x).toNat % 10 ∧
      (∀ a, a < s.base ∨ s.base + 3 ≤ a → t.mem.read a = s.mem.read a) ∧ unchangedBut [.pc, .mem] s t) ∧
    (s.i.toNat < 0x200 →
      exec (.ldB x) s = .next { s with fault := some ⟨.reservedWrite, s.i.toNat, s.pc⟩ }) ∧
    (0x1000 ≤ s.i.toNat + 2 →
      exec (.ldB x) s = .next { s with fault := some ⟨.writeRange, max s.i.toNat 0x1000, s.pc⟩ })

/-- Rules R198 and R202: LD [I],Vx writes V0 .. V[x] at I .. I + x when all may be written, and leaves I; otherwise it
raises the fault of the lowest bad address and writes none (the spec's own decisions D5, D6 and D11). -/
def Obligations.BlockRegisterStore : Prop :=
  ∀ (x : RegIndex) (s : State),
    (0x200 ≤ s.i.toNat → s.i.toNat + x.toNat < 0x1000 → ∃ t, exec (.storeRegs x) s = .next t ∧ t.pc = s.pc + 2 ∧
      (∀ r : RegIndex, r ≤ x → t.mem.read (s.base + r.toNat) = s.getV r) ∧
      (∀ a, a < s.base ∨ s.base + x.toNat < a → t.mem.read a = s.mem.read a) ∧ unchangedBut [.pc, .mem] s t) ∧
    (s.i.toNat < 0x200 →
      exec (.storeRegs x) s = .next { s with fault := some ⟨.reservedWrite, s.i.toNat, s.pc⟩ }) ∧
    (0x1000 ≤ s.i.toNat + x.toNat →
      exec (.storeRegs x) s = .next { s with fault := some ⟨.writeRange, max s.i.toNat 0x1000, s.pc⟩ })

/-- Rules R200 and R202: LD Vx,[I] loads V0 .. V[x] from I .. I + x, and leaves the registers above x and I; out of
range it raises ReadRange at the lowest bad address with no register written (the spec's own decisions D5 and D11). -/
def Obligations.BlockRegisterLoad : Prop :=
  ∀ (x : RegIndex) (s : State),
    (s.i.toNat + x.toNat < 0x1000 → ∃ t, exec (.loadRegs x) s = .next t ∧ t.pc = s.pc + 2 ∧
      (∀ r : RegIndex, t.getV r = if r ≤ x then s.mem.read (s.i.toNat + r.toNat) else s.getV r) ∧
      unchangedBut [.pc, .v] s t) ∧
    (0x1000 ≤ s.i.toNat + x.toNat →
      exec (.loadRegs x) s = .next { s with fault := some ⟨.readRange, max s.i.toNat 0x1000, s.pc⟩ })

/-- Rule R71, the spec's own decision D25: the fetch after a store reads what the store left, by LD [I],Vx and by LD B,Vx
alike, whether the store covers both bytes of the next instruction, one of them or none. -/
def Obligations.StoreIsSeenByNextFetch : Prop :=
  ∀ (x : RegIndex) (s : State), 0x200 ≤ s.i.toNat → (s.pc + 2).toNat + 1 < 0x1000 →
    (s.i.toNat + x.toNat < 0x1000 → ∃ t, exec (.storeRegs x) s = .next t ∧
      fetchWord t = .ok (byteAfterStore s x (s.pc + 2).toNat ++ byteAfterStore s x ((s.pc + 2).toNat + 1))) ∧
    (s.i.toNat + 2 < 0x1000 → ∃ t, exec (.ldB x) s = .next t ∧
      fetchWord t = .ok (byteAfterDecimal s x (s.pc + 2).toNat ++ byteAfterDecimal s x ((s.pc + 2).toNat + 1)))

/-! ### Display -/

/-- Rule R220: CLS zeroes all 2048 cells and sets DIRTY; nothing else changes. -/
def Obligations.ClearScreen : Prop :=
  ∀ s : State, ∃ t, exec .cls s = .next t ∧ t.pc = s.pc + 2 ∧ (∀ k, fbCell t.fb k = false) ∧ t.dirty = true ∧
    unchangedBut [.pc, .fb, .dirty] s t

/-- Rules R223 to R230: DRW inverts exactly the cells under the 1 bits of the sprite, VF is 1 when one of them was set
and 0 otherwise, DIRTY is set; out of range it raises ReadRange at the lowest bad address and changes nothing else. That
coordinates and bytes are read before anything is written is decision D13, the range check D5. -/
def Obligations.DrawSprite : Prop :=
  ∀ (x y : RegIndex) (n : BitVec 4) (s : State),
    (n = 0 ∨ s.i.toNat + n.toNat ≤ 0x1000 → ∃ t, exec (.drw x y n) s = .next t ∧ t.pc = s.pc + 2 ∧
      (∀ k, k < 2048 → drawnAt s x y n k → fbCell t.fb k = !fbCell s.fb k) ∧
      (∀ k, k < 2048 → ¬ drawnAt s x y n k → fbCell t.fb k = fbCell s.fb k) ∧
      ((∃ k, drawnAt s x y n k ∧ fbCell s.fb k = true) → t.getV flagReg = 1) ∧
      ((∀ k, drawnAt s x y n k → fbCell s.fb k = false) → t.getV flagReg = 0) ∧
      (∀ r, r ≠ flagReg → t.getV r = s.getV r) ∧ t.dirty = true ∧ unchangedBut [.pc, .v, .fb, .dirty] s t) ∧
    (n ≠ 0 → 0x1000 < s.i.toNat + n.toNat →
      exec (.drw x y n) s = .next { s with fault := some ⟨.readRange, max s.i.toNat 0x1000, s.pc⟩ })

/-- Rule R231, which the spec derives: no cell is targeted twice within one sprite of at most 15 rows. -/
def Obligations.SpriteCellsAreDistinct : Prop :=
  ∀ (px py : Nat) (rows : List Byte), rows.length ≤ 15 →
    (spriteCells px py rows).Nodup ∧ ∀ k ∈ spriteCells px py rows, k < 2048

/-- Rules R226 to R228 and R231: drawing the same sprite twice at the same place restores FB, and the second draw sets
VF exactly when a drawn cell was off before the first (log entry 9: rule R231's last clause read so). -/
def Obligations.DrawTwiceRestores : Prop :=
  ∀ (x y : RegIndex) (n : BitVec 4) (s t u : State), n = 0 ∨ s.i.toNat + n.toNat ≤ 0x1000 →
    exec (.drw x y n) s = .next t → t.getV x = s.getV x → t.getV y = s.getV y → exec (.drw x y n) t = .next u →
    u.fb = s.fb ∧ (u.getV flagReg = 1 ↔ ∃ k, drawnAt s x y n k ∧ fbCell s.fb k = false)

/-! ### Keys and timers -/

/-- Rules R250 to R252: SKP and SKNP test KEY[V[x]] and skip; V[x] above 15 raises KeyIndex, the spec's own decision D8.
-/
def Obligations.KeySkips : Prop :=
  ∀ (x : RegIndex) (s : State),
    ((s.getV x).toNat ≤ 15 →
      (∃ t, exec (.skp x) s = .next t ∧ unchangedBut [.pc] s t ∧
        t.pc = if s.keyDown (s.getV x).toNat = true then s.pc + 4 else s.pc + 2) ∧
      (∃ t, exec (.sknp x) s = .next t ∧ unchangedBut [.pc] s t ∧
        t.pc = if s.keyDown (s.getV x).toNat = false then s.pc + 4 else s.pc + 2)) ∧
    (15 < (s.getV x).toNat →
      exec (.skp x) s = .next { s with fault := some ⟨.keyIndex, (s.getV x).toNat, s.pc⟩ } ∧
      exec (.sknp x) s = .next { s with fault := some ⟨.keyIndex, (s.getV x).toNat, s.pc⟩ })

/-- Rules R256 and R257: with no key pressed LD Vx,K leaves the whole state as it was, pc included; with some key
pressed it binds a pressed key, which one being free (decision D12), and advances. `keyPicks` is the model's own counter
(log entry 4). -/
def Obligations.WaitForKey : Prop :=
  ∀ (x : RegIndex) (s : State),
    (s.key = 0 → exec (.ldVxK x) s = .next s) ∧
    (s.key ≠ 0 → ∃ t, exec (.ldVxK x) s = .next t ∧ t.pc = s.pc + 2 ∧
      s.keyDown (t.getV x).toNat = true ∧ (t.getV x).toNat < 16 ∧
      (∀ r, r ≠ x → t.getV r = s.getV r) ∧ t.keyPicks = s.keyPicks + 1 ∧
      unchangedBut [.pc, .v, .keyPicks] s t)

/-- Rule R257, the spec's own decision D12: the choice is free among the pressed keys; every pressed key is picked by
some choice, and no other is. -/
def Obligations.AnyPressedKeyMayBeBound : Prop :=
  ∀ (s : State) (k : Nat),
    (∃ choice, chooseKey choice s.pressedKeys = some k) ↔ s.keyDown k = true

/-- Rules R258 to R260: the timer read and the two timer writes. -/
def Obligations.TimerReadAndWrite : Prop :=
  ∀ (x : RegIndex) (s : State),
    (∃ t, exec (.ldVxDT x) s = .next t ∧ t.pc = s.pc + 2 ∧
      (∀ r, t.getV r = if r = x then s.dt else s.getV r) ∧ unchangedBut [.pc, .v] s t) ∧
    (∃ t, exec (.ldDTVx x) s = .next t ∧ t.pc = s.pc + 2 ∧ t.dt = s.getV x ∧ unchangedBut [.pc, .dt] s t) ∧
    (∃ t, exec (.ldSTVx x) s = .next t ∧ t.pc = s.pc + 2 ∧ t.st = s.getV x ∧ unchangedBut [.pc, .st] s t)

/-! ### The host's ports -/

/-- Rule R262: a tick decrements both timers by 1, each floored at 0, and changes nothing else. -/
def Obligations.TickDecrementsTimers : Prop :=
  ∀ s : State, ∃ t, portStep .tick s = .next t ∧ t.dt.toNat = s.dt.toNat - 1 ∧ t.st.toNat = s.st.toNat - 1 ∧
    unchangedBut [.dt, .st] s t

/-- Rule R366: a key press sets KEY[k], a release clears it; no other key and nothing else changes. -/
def Obligations.KeyPressAndRelease : Prop :=
  ∀ (k : BitVec 4) (s : State),
    (∃ t, portStep (.keyPress k) s = .next t ∧ unchangedBut [.key] s t ∧
      ∀ j, t.keyDown j = if j = k.toNat then true else s.keyDown j) ∧
    (∃ t, portStep (.keyRelease k) s = .next t ∧ unchangedBut [.key] s t ∧
      ∀ j, t.keyDown j = if j = k.toNat then false else s.keyDown j)

/-- Rules R342 and R343: a program of at most 3584 bytes is copied to 0x200 on and nothing else changes; a longer one is
refused with RomTooLargeError and changes no state (the spec's own decision D21). -/
def Obligations.ProgramLoad : Prop :=
  ∀ (bytes : List Byte) (s : State),
    (bytes.length ≤ 3584 → ∃ t, portLoad bytes s = (.loaded, t) ∧ unchangedBut [.mem] s t ∧
      (∀ k, k < bytes.length → t.mem.read (0x200 + k) = bytes.getD k 0) ∧
      (∀ a, a < 0x200 ∨ 0x200 + bytes.length ≤ a → t.mem.read a = s.mem.read a)) ∧
    (3584 < bytes.length → portLoad bytes s = (.romTooLarge, s))

/-- Rule R364: the dirty port reads DIRTY with no side effect (it is a function of the state), dirty_clear clears it and
changes nothing else; and no step clears it (rule R30: only the host does). -/
def Obligations.DirtyIsClearedOnlyByTheHost : Prop :=
  (∀ s : State, portDirty s = s.dirty ∧
    ∃ t, portStep .dirtyClear s = .next t ∧ portDirty t = false ∧ unchangedBut [.dirty] s t) ∧
  (∀ s t : State, step s = .next t → portDirty s = true → portDirty t = true)

/-- Rule R345: a session that starts at reset is admitted exactly when no load comes after a step since the last reset
before it, and no load comes after an accepted one before the next reset. `seg` is what lies between the last reset (or
the start) and the load, `rest` what lies between the load and the next reset (or the end). The session shape is the
spec's own decision D21, read as in log entry 8: a refused load does not count. -/
def Obligations.AdmittedSessionsLoadOnce : Prop :=
  ∀ es : List PortEvent, admittedFrom true es = true ↔
    ∀ (before seg rest after : List PortEvent) (bytes : List Byte),
      es = before ++ seg ++ .load bytes :: (rest ++ after) →
      (before = [] ∨ before.getLast? = some .reset) → .reset ∉ seg →
      .reset ∉ rest → (after = [] ∨ after.head? = some .reset) →
      .step ∉ seg ∧ (bytes.length ≤ 3584 → ∀ other, .load other ∉ rest)

/-! ### Ends of a run -/

/-- Rule R347, the spec's own decision D32: at a self-loop and at a key wait a step leaves the whole state unchanged,
and so does a step of a faulted block. -/
def Obligations.EndsAreFixedPoints : Prop :=
  ∀ s : State, s.atSelfLoop ∨ s.faulted ∨ s.atKeyWait → step s = .next s

/-- The model's own `State.withFetchWord` (not of the spec; log entry 7): the next step runs exactly the placed
instruction. -/
def Obligations.PlacedWordRunsNext : Prop :=
  ∀ (s : State) (w : Nat) (i : Instr), decodeTableWord 16 w = some i →
    step (s.withFetchWord 16 w) = exec i (s.withFetchWord 16 w)
end

