-- ==== Sys2Proof/Laws/Decode.lean ====
section
/-! SUPPORT. The fields of the three word forms (rule R81): each field of a word built from fields is the field it was built
from, and a word is built from its fields. -/

namespace Sys2Proof

/-! ### Fields and words as numbers -/

theorem toNat_append_eq {n m : Nat} (a : BitVec n) (b : BitVec m) : (a ++ b).toNat = a.toNat * 2 ^ m + b.toNat := by
  rw [BitVec.toNat_append, ← Nat.shiftLeft_add_eq_or_of_lt b.isLt, Nat.shiftLeft_eq]

theorem opField_toNat (w : Word) : (opField w).toNat = w.toNat / 4096 % 16 := by
  simp [opField, Nat.shiftRight_eq_div_pow]

theorem xField_toNat (w : Word) : (xField w).toNat = w.toNat / 256 % 16 := by
  simp [xField, Nat.shiftRight_eq_div_pow]

theorem yField_toNat (w : Word) : (yField w).toNat = w.toNat / 16 % 16 := by
  simp [yField, Nat.shiftRight_eq_div_pow]

theorem nField_toNat (w : Word) : (nField w).toNat = w.toNat % 16 := by
  simp [nField]

theorem kkField_toNat (w : Word) : (kkField w).toNat = w.toNat % 256 := by
  simp [kkField]

theorem nnnField_toNat (w : Word) : (nnnField w).toNat = w.toNat % 4096 := by
  simp [nnnField]

theorem wordXyn_toNat (o x y n : BitVec 4) :
    (wordXyn o x y n).toNat = o.toNat * 4096 + x.toNat * 256 + y.toNat * 16 + n.toNat := by
  simp only [wordXyn, toNat_append_eq]; omega

theorem wordXkk_toNat (o x : BitVec 4) (kk : Byte) :
    (wordXkk o x kk).toNat = o.toNat * 4096 + x.toNat * 256 + kk.toNat := by
  simp only [wordXkk, toNat_append_eq]; omega

theorem wordNnn_toNat (o : BitVec 4) (nnn : Addr12) : (wordNnn o nnn).toNat = o.toNat * 4096 + nnn.toNat := by
  simp only [wordNnn, toNat_append_eq]; omega

theorem wordOfBytes_toNat (hi lo : Byte) : (wordOfBytes hi lo).toNat = hi.toNat * 256 + lo.toNat := by
  simp only [wordOfBytes, toNat_append_eq]; omega

/-! ### The fields of `op x y n`, `op x kk` and `op nnn` -/

section
variable (o x y n : BitVec 4) (kk : Byte) (nnn : Addr12)

@[simp] theorem opField_wordXyn : opField (wordXyn o x y n) = o := by
  apply BitVec.eq_of_toNat_eq; rw [opField_toNat, wordXyn_toNat]; omega

@[simp] theorem xField_wordXyn : xField (wordXyn o x y n) = x := by
  apply BitVec.eq_of_toNat_eq; rw [xField_toNat, wordXyn_toNat]; omega

@[simp] theorem yField_wordXyn : yField (wordXyn o x y n) = y := by
  apply BitVec.eq_of_toNat_eq; rw [yField_toNat, wordXyn_toNat]; omega

@[simp] theorem nField_wordXyn : nField (wordXyn o x y n) = n := by
  apply BitVec.eq_of_toNat_eq; rw [nField_toNat, wordXyn_toNat]; omega

@[simp] theorem opField_wordXkk : opField (wordXkk o x kk) = o := by
  apply BitVec.eq_of_toNat_eq; rw [opField_toNat, wordXkk_toNat]; omega

@[simp] theorem xField_wordXkk : xField (wordXkk o x kk) = x := by
  apply BitVec.eq_of_toNat_eq; rw [xField_toNat, wordXkk_toNat]; omega

@[simp] theorem kkField_wordXkk : kkField (wordXkk o x kk) = kk := by
  apply BitVec.eq_of_toNat_eq; rw [kkField_toNat, wordXkk_toNat]; omega

@[simp] theorem opField_wordNnn : opField (wordNnn o nnn) = o := by
  apply BitVec.eq_of_toNat_eq; rw [opField_toNat, wordNnn_toNat]; omega

@[simp] theorem nnnField_wordNnn : nnnField (wordNnn o nnn) = nnn := by
  apply BitVec.eq_of_toNat_eq; rw [nnnField_toNat, wordNnn_toNat]; omega

end

/-! ### A word from its fields and from its bytes -/

theorem wordXyn_of_fields (w : Word) : wordXyn (opField w) (xField w) (yField w) (nField w) = w := by
  apply BitVec.eq_of_toNat_eq
  rw [wordXyn_toNat, opField_toNat, xField_toNat, yField_toNat, nField_toNat]; omega

theorem wordXkk_of_fields (w : Word) : wordXkk (opField w) (xField w) (kkField w) = w := by
  apply BitVec.eq_of_toNat_eq
  rw [wordXkk_toNat, opField_toNat, xField_toNat, kkField_toNat]; omega

theorem wordNnn_of_fields (w : Word) : wordNnn (opField w) (nnnField w) = w := by
  apply BitVec.eq_of_toNat_eq
  rw [wordNnn_toNat, opField_toNat, nnnField_toNat]; omega

/-- The two bytes of a word, laid out big-endian, make the word again (rule R61). -/
@[simp] theorem wordOfBytes_bytes (w : Word) : wordOfBytes (highByte w) (lowByte w) = w := by
  apply BitVec.eq_of_toNat_eq
  rw [wordOfBytes_toNat]
  simp only [highByte, lowByte, BitVec.extractLsb'_toNat, Nat.shiftRight_eq_div_pow]
  omega

/-- Decoding two bytes is decoding their word, and leaves the bytes after them (rule R89). -/
theorem decodeBytes_cons (hi lo : Byte) (rest : List Byte) :
    decodeBytes (hi :: lo :: rest) = (decode (wordOfBytes hi lo)).map fun i => (i, rest) := by
  simp only [decodeBytes]
  cases decode (wordOfBytes hi lo) <;> rfl

end Sys2Proof
end

