-- ==== Sys2Proof/Laws/Memory.lean ====
section
/-! SUPPORT. What the memory operations do: reading after a write, the canonical form kept by every one of them, and the
checked reads and writes in closed form (rules R55 to R60 of spec/20_memory.md). -/

namespace Sys2Proof.Machine

/-! ### One cell -/

theorem Memory.read_of_unlisted {m : Memory} {a : Nat} (h : ∀ c ∈ m, c.1 ≠ a) : m.read a = Memory.initial a := by
  induction m with
  | nil => rfl
  | cons c m ih =>
    have hc : a ≠ c.1 := fun e => h c (by simp) e.symm
    simp only [Memory.read, if_neg hc]
    exact ih fun d hd => h d (by simp [hd])

theorem Memory.read_filter_ne (m : Memory) (a b : Nat) :
    Memory.read (m.filter fun c => c.1 != a) b = if b = a then Memory.initial a else m.read b := by
  induction m with
  | nil => by_cases h : b = a <;> simp [Memory.read, h]
  | cons c m ih =>
    obtain ⟨k, v⟩ := c
    by_cases hk : k = a
    · subst hk
      by_cases hb : b = k <;> simp_all [Memory.read]
    · by_cases hb : b = a
      · subst hb
        simp_all [Memory.read, Ne.symm hk]
      · simp_all [Memory.read]

theorem Memory.read_insert {m : Memory} {a : Nat} (v : Byte) (b : Nat) (h : ∀ c ∈ m, c.1 ≠ a) :
    (Memory.insert a v m).read b = if b = a then v else m.read b := by
  induction m with
  | nil => simp [Memory.insert, Memory.read]
  | cons c m ih =>
    obtain ⟨k, w⟩ := c
    have hk : k ≠ a := h (k, w) (by simp)
    have ih' := ih fun d hd => h d (by simp [hd])
    simp only [Memory.insert]
    split
    · simp [Memory.read]
    · simp only [Memory.read, ih']
      by_cases hb : b = k
      · subst hb; simp [hk]
      · simp [hb]

/-- A cell reads back the last byte written to it, and no other cell changes (rules R55, R58 and R68). -/
theorem Memory.read_write (m : Memory) (a b : Nat) (v : Byte) :
    (m.write a v).read b = if b = a then v else m.read b := by
  have hne : ∀ c ∈ m.filter (fun c => c.1 != a), c.1 ≠ a := by simp
  simp only [Memory.write]
  split
  · next hv => simp only [Memory.read_filter_ne, hv]
  · rw [Memory.read_insert v b hne, Memory.read_filter_ne]
    by_cases hb : b = a <;> simp [hb]

/-- A list of bytes written from `a` on is read back, and no other cell changes (rule R62). -/
theorem Memory.read_writeList (bs : List Byte) (m : Memory) (a b : Nat) :
    (m.writeList a bs).read b = if a ≤ b ∧ b < a + bs.length then bs.getD (b - a) 0 else m.read b := by
  induction bs generalizing m a with
  | nil => simp only [Memory.writeList, List.length_nil]; rw [if_neg (by omega)]
  | cons c bs ih =>
    simp only [Memory.writeList, ih, Memory.read_write, List.length_cons]
    by_cases h1 : b = a
    · subst h1; simp
    · by_cases h2 : a + 1 ≤ b ∧ b < a + 1 + bs.length
      · obtain ⟨d, rfl⟩ : ∃ d, b = a + 1 + d := ⟨b - (a + 1), by omega⟩
        rw [if_pos h2, if_pos (by omega), show a + 1 + d - (a + 1) = d by omega,
          show a + 1 + d - a = d + 1 by omega, List.getD_cons_succ]
      · rw [if_neg h2, if_neg h1, if_neg (by omega)]

/-! ### The canonical form -/

theorem Memory.mem_insert {m : Memory} {a : Nat} {v : Byte} {c : Host.Cell} :
    c ∈ Memory.insert a v m ↔ c = (a, v) ∨ c ∈ m := by
  induction m with
  | nil => simp [Memory.insert]
  | cons d m ih =>
    simp only [Memory.insert]
    split
    · simp
    · simp only [List.mem_cons, ih]; tauto

theorem Memory.insert_rising {m : Memory} {a : Nat} (v : Byte) (h : m.Pairwise fun c d => c.1 < d.1)
    (hne : ∀ c ∈ m, c.1 ≠ a) : (Memory.insert a v m).Pairwise fun c d => c.1 < d.1 := by
  induction m with
  | nil => simp [Memory.insert]
  | cons c m ih =>
    obtain ⟨hc, hm⟩ := List.pairwise_cons.1 h
    simp only [Memory.insert]
    split
    · next hlt =>
      refine List.pairwise_cons.2 ⟨fun d hd => ?_, h⟩
      rcases List.mem_cons.1 hd with rfl | hd
      · exact hlt
      · exact lt_trans hlt (hc d hd)
    · next hlt =>
      have hca : c.1 ≠ a := hne c (by simp)
      refine List.pairwise_cons.2 ⟨fun d hd => ?_, ih hm fun d hd => hne d (by simp [hd])⟩
      rcases Memory.mem_insert.1 hd with rfl | hd
      · change c.1 < a; omega
      · exact hc d hd

/-- A write keeps the canonical form. -/
theorem Memory.write_wf {m : Memory} {a : Nat} (v : Byte) (h : m.wf) (ha : a < Config.memSize) : (m.write a v).wf := by
  have hf : (m.filter fun c => c.1 != a).Pairwise fun c d => c.1 < d.1 := h.1.filter _
  have hin : ∀ c ∈ m.filter (fun c => c.1 != a), c.1 < Config.memSize ∧ c.2 ≠ Memory.initial c.1 :=
    fun c hc => h.2 c (List.mem_of_mem_filter hc)
  simp only [Memory.write]
  split
  · exact ⟨hf, hin⟩
  · next hv =>
    refine ⟨Memory.insert_rising v hf (by simp), fun c hc => ?_⟩
    rcases Memory.mem_insert.1 hc with rfl | hc
    · exact ⟨ha, hv⟩
    · exact hin c hc

/-- So does a write of several bytes inside the address space. -/
theorem Memory.writeList_wf {m : Memory} {a : Nat} (bs : List Byte) (h : m.wf)
    (ha : a + bs.length ≤ Config.memSize) : (m.writeList a bs).wf := by
  induction bs generalizing m a with
  | nil => exact h
  | cons b bs ih =>
    rw [List.length_cons] at ha
    exact ih (Memory.write_wf b h (by omega)) (by omega)

/-- Memory with nothing listed is in canonical form. -/
theorem Memory.empty_wf : Memory.wf [] := ⟨List.Pairwise.nil, by simp⟩

/-- A cell past the font holds zero after construction (rules R37 and R51). -/
theorem Memory.initial_of_ge {a : Nat} (h : 0x50 ≤ a) : Memory.initial a = 0 := by
  have hlen : Config.font.length = 80 := by decide
  simp [Memory.initial, List.getD_eq_getElem?_getD, List.getElem?_eq_none (show Config.font.length ≤ a by omega)]

/-! ### Checked reads and writes -/

/-- Everything a checked read does: the bytes when every address is in memory, else ReadRange at the lowest address that
is not (rules R57 and R301). -/
theorem readBytes_eq (m : Memory) (a n : Nat) :
    readBytes m a n =
      if n ≠ 0 ∧ 0x1000 < a + n then .error ⟨.readRange, max a 0x1000⟩
      else .ok ((List.range n).map fun k => m.read (a + k)) := by
  induction n generalizing a with
  | zero => simp [readBytes]
  | succ n ih =>
    simp only [readBytes, memRead, Config.memSize, ih]
    by_cases h1 : 0x1000 ≤ a
    · rw [if_pos h1, if_pos (show n + 1 ≠ 0 ∧ 0x1000 < a + (n + 1) by omega), max_eq_left h1]
    · rw [if_neg h1]
      by_cases h2 : n ≠ 0 ∧ 0x1000 < a + 1 + n
      · simp only [if_pos h2]
        rw [if_pos (by omega), max_eq_right (by omega), max_eq_right (by omega)]
      · simp only [if_neg h2]
        rw [if_neg (by omega), List.range_succ_eq_map]
        simp [Function.comp_def, Nat.add_assoc, Nat.add_comm 1, Nat.succ_eq_add_one]

/-- The fault of a checked write of n ≥ 1 bytes: the lowest address that may not be written (rules R59, R60 and R305). -/
theorem writeCheckAll_eq (a n : Nat) :
    writeCheckAll a n =
      if n = 0 then none
      else if a < 0x200 then some ⟨.reservedWrite, a⟩
      else if 0x1000 < a + n then some ⟨.writeRange, max a 0x1000⟩
      else none := by
  induction n generalizing a with
  | zero => rfl
  | succ n ih =>
    simp only [writeCheckAll, writeCheck, Config.memSize, Config.progBase, ih]
    by_cases h1 : 0x1000 ≤ a
    · rw [if_pos h1, if_neg (show ¬ n + 1 = 0 by omega), if_neg (show ¬ a < 0x200 by omega),
        if_pos (show 0x1000 < a + (n + 1) by omega), max_eq_left h1]
    · rw [if_neg h1, if_neg (show ¬ n + 1 = 0 by omega)]
      by_cases h2 : a < 0x200
      · rw [if_pos h2, if_pos h2]
      · rw [if_neg h2, if_neg h2]
        by_cases h3 : n = 0
        · subst h3; simp only [if_true]; rw [if_neg (by omega)]
        · simp only [if_neg h3]
          rw [if_neg (show ¬ a + 1 < 0x200 by omega)]
          by_cases h4 : 0x1000 < a + 1 + n
          · rw [if_pos h4, if_pos (by omega), max_eq_right (by omega), max_eq_right (by omega)]
          · rw [if_neg h4, if_neg (by omega)]

/-- A checked write that succeeds wrote the whole list, inside program space (rule R60). -/
theorem writeBytes_ok {m m' : Memory} {a : Nat} {bs : List Byte} (h : writeBytes m a bs = .ok m') :
    m' = m.writeList a bs ∧ (bs ≠ [] → 0x200 ≤ a ∧ a + bs.length ≤ 0x1000) := by
  simp only [writeBytes, writeCheckAll_eq] at h
  split at h
  · cases h
  · next hn =>
    cases h
    refine ⟨rfl, fun hne => ?_⟩
    have hl : bs.length ≠ 0 := by simpa using hne
    rw [if_neg hl] at hn
    split at hn
    · cases hn
    · split at hn
      · cases hn
      · omega

/-- A checked write inside program space succeeds (rules R58 and R60). -/
theorem writeBytes_of_range (m : Memory) {a : Nat} {bs : List Byte} (h0 : 0x200 ≤ a) (h1 : a + bs.length ≤ 0x1000) :
    writeBytes m a bs = .ok (m.writeList a bs) := by
  simp only [writeBytes, writeCheckAll_eq]
  rw [if_neg (show ¬ a < 0x200 by omega), if_neg (show ¬ 0x1000 < a + bs.length by omega)]
  simp

end Sys2Proof.Machine
end

