-- ==== Sys2Proof/Laws/State.lean ====
section
/-! SUPPORT. One lemma per field per update, true by rfl, and one for a register read after each update, so that no proof
unfolds a record update. Each update writes the fields its rule names and no other. -/

namespace Sys2Proof.Machine

variable (s : State)

/-! ### setI -/

@[simp] theorem State.setI_v (w : Word) : (s.setI w).v = s.v := rfl
@[simp] theorem State.setI_i (w : Word) : (s.setI w).i = w := rfl
@[simp] theorem State.setI_pc (w : Word) : (s.setI w).pc = s.pc := rfl
@[simp] theorem State.setI_sp (w : Word) : (s.setI w).sp = s.sp := rfl
@[simp] theorem State.setI_stack (w : Word) : (s.setI w).stack = s.stack := rfl
@[simp] theorem State.setI_dt (w : Word) : (s.setI w).dt = s.dt := rfl
@[simp] theorem State.setI_st (w : Word) : (s.setI w).st = s.st := rfl
@[simp] theorem State.setI_fb (w : Word) : (s.setI w).fb = s.fb := rfl
@[simp] theorem State.setI_dirty (w : Word) : (s.setI w).dirty = s.dirty := rfl
@[simp] theorem State.setI_key (w : Word) : (s.setI w).key = s.key := rfl
@[simp] theorem State.setI_fault (w : Word) : (s.setI w).fault = s.fault := rfl
@[simp] theorem State.setI_diag (w : Word) : (s.setI w).diag = s.diag := rfl
@[simp] theorem State.setI_mem (w : Word) : (s.setI w).mem = s.mem := rfl
@[simp] theorem State.setI_randDraws (w : Word) : (s.setI w).randDraws = s.randDraws := rfl
@[simp] theorem State.setI_keyPicks (w : Word) : (s.setI w).keyPicks = s.keyPicks := rfl
@[simp] theorem State.setI_getV (w : Word) (r : RegIndex) : (s.setI w).getV r = s.getV r := rfl

/-! ### setPc -/

@[simp] theorem State.setPc_v (w : Word) : (s.setPc w).v = s.v := rfl
@[simp] theorem State.setPc_i (w : Word) : (s.setPc w).i = s.i := rfl
@[simp] theorem State.setPc_pc (w : Word) : (s.setPc w).pc = w := rfl
@[simp] theorem State.setPc_sp (w : Word) : (s.setPc w).sp = s.sp := rfl
@[simp] theorem State.setPc_stack (w : Word) : (s.setPc w).stack = s.stack := rfl
@[simp] theorem State.setPc_dt (w : Word) : (s.setPc w).dt = s.dt := rfl
@[simp] theorem State.setPc_st (w : Word) : (s.setPc w).st = s.st := rfl
@[simp] theorem State.setPc_fb (w : Word) : (s.setPc w).fb = s.fb := rfl
@[simp] theorem State.setPc_dirty (w : Word) : (s.setPc w).dirty = s.dirty := rfl
@[simp] theorem State.setPc_key (w : Word) : (s.setPc w).key = s.key := rfl
@[simp] theorem State.setPc_fault (w : Word) : (s.setPc w).fault = s.fault := rfl
@[simp] theorem State.setPc_diag (w : Word) : (s.setPc w).diag = s.diag := rfl
@[simp] theorem State.setPc_mem (w : Word) : (s.setPc w).mem = s.mem := rfl
@[simp] theorem State.setPc_randDraws (w : Word) : (s.setPc w).randDraws = s.randDraws := rfl
@[simp] theorem State.setPc_keyPicks (w : Word) : (s.setPc w).keyPicks = s.keyPicks := rfl
@[simp] theorem State.setPc_getV (w : Word) (r : RegIndex) : (s.setPc w).getV r = s.getV r := rfl

/-! ### setDT -/

@[simp] theorem State.setDT_v (b : Byte) : (s.setDT b).v = s.v := rfl
@[simp] theorem State.setDT_i (b : Byte) : (s.setDT b).i = s.i := rfl
@[simp] theorem State.setDT_pc (b : Byte) : (s.setDT b).pc = s.pc := rfl
@[simp] theorem State.setDT_sp (b : Byte) : (s.setDT b).sp = s.sp := rfl
@[simp] theorem State.setDT_stack (b : Byte) : (s.setDT b).stack = s.stack := rfl
@[simp] theorem State.setDT_dt (b : Byte) : (s.setDT b).dt = b := rfl
@[simp] theorem State.setDT_st (b : Byte) : (s.setDT b).st = s.st := rfl
@[simp] theorem State.setDT_fb (b : Byte) : (s.setDT b).fb = s.fb := rfl
@[simp] theorem State.setDT_dirty (b : Byte) : (s.setDT b).dirty = s.dirty := rfl
@[simp] theorem State.setDT_key (b : Byte) : (s.setDT b).key = s.key := rfl
@[simp] theorem State.setDT_fault (b : Byte) : (s.setDT b).fault = s.fault := rfl
@[simp] theorem State.setDT_diag (b : Byte) : (s.setDT b).diag = s.diag := rfl
@[simp] theorem State.setDT_mem (b : Byte) : (s.setDT b).mem = s.mem := rfl
@[simp] theorem State.setDT_randDraws (b : Byte) : (s.setDT b).randDraws = s.randDraws := rfl
@[simp] theorem State.setDT_keyPicks (b : Byte) : (s.setDT b).keyPicks = s.keyPicks := rfl
@[simp] theorem State.setDT_getV (b : Byte) (r : RegIndex) : (s.setDT b).getV r = s.getV r := rfl

/-! ### setST -/

@[simp] theorem State.setST_v (b : Byte) : (s.setST b).v = s.v := rfl
@[simp] theorem State.setST_i (b : Byte) : (s.setST b).i = s.i := rfl
@[simp] theorem State.setST_pc (b : Byte) : (s.setST b).pc = s.pc := rfl
@[simp] theorem State.setST_sp (b : Byte) : (s.setST b).sp = s.sp := rfl
@[simp] theorem State.setST_stack (b : Byte) : (s.setST b).stack = s.stack := rfl
@[simp] theorem State.setST_dt (b : Byte) : (s.setST b).dt = s.dt := rfl
@[simp] theorem State.setST_st (b : Byte) : (s.setST b).st = b := rfl
@[simp] theorem State.setST_fb (b : Byte) : (s.setST b).fb = s.fb := rfl
@[simp] theorem State.setST_dirty (b : Byte) : (s.setST b).dirty = s.dirty := rfl
@[simp] theorem State.setST_key (b : Byte) : (s.setST b).key = s.key := rfl
@[simp] theorem State.setST_fault (b : Byte) : (s.setST b).fault = s.fault := rfl
@[simp] theorem State.setST_diag (b : Byte) : (s.setST b).diag = s.diag := rfl
@[simp] theorem State.setST_mem (b : Byte) : (s.setST b).mem = s.mem := rfl
@[simp] theorem State.setST_randDraws (b : Byte) : (s.setST b).randDraws = s.randDraws := rfl
@[simp] theorem State.setST_keyPicks (b : Byte) : (s.setST b).keyPicks = s.keyPicks := rfl
@[simp] theorem State.setST_getV (b : Byte) (r : RegIndex) : (s.setST b).getV r = s.getV r := rfl

/-! ### setMem -/

@[simp] theorem State.setMem_v (m : Memory) : (s.setMem m).v = s.v := rfl
@[simp] theorem State.setMem_i (m : Memory) : (s.setMem m).i = s.i := rfl
@[simp] theorem State.setMem_pc (m : Memory) : (s.setMem m).pc = s.pc := rfl
@[simp] theorem State.setMem_sp (m : Memory) : (s.setMem m).sp = s.sp := rfl
@[simp] theorem State.setMem_stack (m : Memory) : (s.setMem m).stack = s.stack := rfl
@[simp] theorem State.setMem_dt (m : Memory) : (s.setMem m).dt = s.dt := rfl
@[simp] theorem State.setMem_st (m : Memory) : (s.setMem m).st = s.st := rfl
@[simp] theorem State.setMem_fb (m : Memory) : (s.setMem m).fb = s.fb := rfl
@[simp] theorem State.setMem_dirty (m : Memory) : (s.setMem m).dirty = s.dirty := rfl
@[simp] theorem State.setMem_key (m : Memory) : (s.setMem m).key = s.key := rfl
@[simp] theorem State.setMem_fault (m : Memory) : (s.setMem m).fault = s.fault := rfl
@[simp] theorem State.setMem_diag (m : Memory) : (s.setMem m).diag = s.diag := rfl
@[simp] theorem State.setMem_mem (m : Memory) : (s.setMem m).mem = m := rfl
@[simp] theorem State.setMem_randDraws (m : Memory) : (s.setMem m).randDraws = s.randDraws := rfl
@[simp] theorem State.setMem_keyPicks (m : Memory) : (s.setMem m).keyPicks = s.keyPicks := rfl
@[simp] theorem State.setMem_getV (m : Memory) (r : RegIndex) : (s.setMem m).getV r = s.getV r := rfl

/-! ### setFB -/

@[simp] theorem State.setFB_v (fb : Framebuffer) : (s.setFB fb).v = s.v := rfl
@[simp] theorem State.setFB_i (fb : Framebuffer) : (s.setFB fb).i = s.i := rfl
@[simp] theorem State.setFB_pc (fb : Framebuffer) : (s.setFB fb).pc = s.pc := rfl
@[simp] theorem State.setFB_sp (fb : Framebuffer) : (s.setFB fb).sp = s.sp := rfl
@[simp] theorem State.setFB_stack (fb : Framebuffer) : (s.setFB fb).stack = s.stack := rfl
@[simp] theorem State.setFB_dt (fb : Framebuffer) : (s.setFB fb).dt = s.dt := rfl
@[simp] theorem State.setFB_st (fb : Framebuffer) : (s.setFB fb).st = s.st := rfl
@[simp] theorem State.setFB_fb (fb : Framebuffer) : (s.setFB fb).fb = fb := rfl
@[simp] theorem State.setFB_dirty (fb : Framebuffer) : (s.setFB fb).dirty = true := rfl
@[simp] theorem State.setFB_key (fb : Framebuffer) : (s.setFB fb).key = s.key := rfl
@[simp] theorem State.setFB_fault (fb : Framebuffer) : (s.setFB fb).fault = s.fault := rfl
@[simp] theorem State.setFB_diag (fb : Framebuffer) : (s.setFB fb).diag = s.diag := rfl
@[simp] theorem State.setFB_mem (fb : Framebuffer) : (s.setFB fb).mem = s.mem := rfl
@[simp] theorem State.setFB_randDraws (fb : Framebuffer) : (s.setFB fb).randDraws = s.randDraws := rfl
@[simp] theorem State.setFB_keyPicks (fb : Framebuffer) : (s.setFB fb).keyPicks = s.keyPicks := rfl
@[simp] theorem State.setFB_getV (fb : Framebuffer) (r : RegIndex) : (s.setFB fb).getV r = s.getV r := rfl

/-! ### countDraw -/

@[simp] theorem State.countDraw_v : (s.countDraw).v = s.v := rfl
@[simp] theorem State.countDraw_i : (s.countDraw).i = s.i := rfl
@[simp] theorem State.countDraw_pc : (s.countDraw).pc = s.pc := rfl
@[simp] theorem State.countDraw_sp : (s.countDraw).sp = s.sp := rfl
@[simp] theorem State.countDraw_stack : (s.countDraw).stack = s.stack := rfl
@[simp] theorem State.countDraw_dt : (s.countDraw).dt = s.dt := rfl
@[simp] theorem State.countDraw_st : (s.countDraw).st = s.st := rfl
@[simp] theorem State.countDraw_fb : (s.countDraw).fb = s.fb := rfl
@[simp] theorem State.countDraw_dirty : (s.countDraw).dirty = s.dirty := rfl
@[simp] theorem State.countDraw_key : (s.countDraw).key = s.key := rfl
@[simp] theorem State.countDraw_fault : (s.countDraw).fault = s.fault := rfl
@[simp] theorem State.countDraw_diag : (s.countDraw).diag = s.diag := rfl
@[simp] theorem State.countDraw_mem : (s.countDraw).mem = s.mem := rfl
@[simp] theorem State.countDraw_randDraws : (s.countDraw).randDraws = s.randDraws + 1 := rfl
@[simp] theorem State.countDraw_keyPicks : (s.countDraw).keyPicks = s.keyPicks := rfl
@[simp] theorem State.countDraw_getV (r : RegIndex) : (s.countDraw).getV r = s.getV r := rfl

/-! ### countPick -/

@[simp] theorem State.countPick_v : (s.countPick).v = s.v := rfl
@[simp] theorem State.countPick_i : (s.countPick).i = s.i := rfl
@[simp] theorem State.countPick_pc : (s.countPick).pc = s.pc := rfl
@[simp] theorem State.countPick_sp : (s.countPick).sp = s.sp := rfl
@[simp] theorem State.countPick_stack : (s.countPick).stack = s.stack := rfl
@[simp] theorem State.countPick_dt : (s.countPick).dt = s.dt := rfl
@[simp] theorem State.countPick_st : (s.countPick).st = s.st := rfl
@[simp] theorem State.countPick_fb : (s.countPick).fb = s.fb := rfl
@[simp] theorem State.countPick_dirty : (s.countPick).dirty = s.dirty := rfl
@[simp] theorem State.countPick_key : (s.countPick).key = s.key := rfl
@[simp] theorem State.countPick_fault : (s.countPick).fault = s.fault := rfl
@[simp] theorem State.countPick_diag : (s.countPick).diag = s.diag := rfl
@[simp] theorem State.countPick_mem : (s.countPick).mem = s.mem := rfl
@[simp] theorem State.countPick_randDraws : (s.countPick).randDraws = s.randDraws := rfl
@[simp] theorem State.countPick_keyPicks : (s.countPick).keyPicks = s.keyPicks + 1 := rfl
@[simp] theorem State.countPick_getV (r : RegIndex) : (s.countPick).getV r = s.getV r := rfl

/-! ### emitDiag -/

@[simp] theorem State.emitDiag_v (w a : Word) : (s.emitDiag w a).v = s.v := rfl
@[simp] theorem State.emitDiag_i (w a : Word) : (s.emitDiag w a).i = s.i := rfl
@[simp] theorem State.emitDiag_pc (w a : Word) : (s.emitDiag w a).pc = s.pc := rfl
@[simp] theorem State.emitDiag_sp (w a : Word) : (s.emitDiag w a).sp = s.sp := rfl
@[simp] theorem State.emitDiag_stack (w a : Word) : (s.emitDiag w a).stack = s.stack := rfl
@[simp] theorem State.emitDiag_dt (w a : Word) : (s.emitDiag w a).dt = s.dt := rfl
@[simp] theorem State.emitDiag_st (w a : Word) : (s.emitDiag w a).st = s.st := rfl
@[simp] theorem State.emitDiag_fb (w a : Word) : (s.emitDiag w a).fb = s.fb := rfl
@[simp] theorem State.emitDiag_dirty (w a : Word) : (s.emitDiag w a).dirty = s.dirty := rfl
@[simp] theorem State.emitDiag_key (w a : Word) : (s.emitDiag w a).key = s.key := rfl
@[simp] theorem State.emitDiag_fault (w a : Word) : (s.emitDiag w a).fault = s.fault := rfl
@[simp] theorem State.emitDiag_diag (w a : Word) : (s.emitDiag w a).diag = s.diag ++ [⟨w, a⟩] := rfl
@[simp] theorem State.emitDiag_mem (w a : Word) : (s.emitDiag w a).mem = s.mem := rfl
@[simp] theorem State.emitDiag_randDraws (w a : Word) : (s.emitDiag w a).randDraws = s.randDraws := rfl
@[simp] theorem State.emitDiag_keyPicks (w a : Word) : (s.emitDiag w a).keyPicks = s.keyPicks := rfl
@[simp] theorem State.emitDiag_getV (w a : Word) (r : RegIndex) : (s.emitDiag w a).getV r = s.getV r := rfl

/-! ### takeFault -/

@[simp] theorem State.takeFault_v (r : Raised) : (s.takeFault r).v = s.v := rfl
@[simp] theorem State.takeFault_i (r : Raised) : (s.takeFault r).i = s.i := rfl
@[simp] theorem State.takeFault_pc (r : Raised) : (s.takeFault r).pc = s.pc := rfl
@[simp] theorem State.takeFault_sp (r : Raised) : (s.takeFault r).sp = s.sp := rfl
@[simp] theorem State.takeFault_stack (r : Raised) : (s.takeFault r).stack = s.stack := rfl
@[simp] theorem State.takeFault_dt (r : Raised) : (s.takeFault r).dt = s.dt := rfl
@[simp] theorem State.takeFault_st (r : Raised) : (s.takeFault r).st = s.st := rfl
@[simp] theorem State.takeFault_fb (r : Raised) : (s.takeFault r).fb = s.fb := rfl
@[simp] theorem State.takeFault_dirty (r : Raised) : (s.takeFault r).dirty = s.dirty := rfl
@[simp] theorem State.takeFault_key (r : Raised) : (s.takeFault r).key = s.key := rfl
@[simp] theorem State.takeFault_fault (r : Raised) : (s.takeFault r).fault = some ⟨r.cause, r.info, s.pc⟩ := rfl
@[simp] theorem State.takeFault_diag (r : Raised) : (s.takeFault r).diag = s.diag := rfl
@[simp] theorem State.takeFault_mem (r : Raised) : (s.takeFault r).mem = s.mem := rfl
@[simp] theorem State.takeFault_randDraws (r : Raised) : (s.takeFault r).randDraws = s.randDraws := rfl
@[simp] theorem State.takeFault_keyPicks (r : Raised) : (s.takeFault r).keyPicks = s.keyPicks := rfl
@[simp] theorem State.takeFault_getV (f : Raised) (r : RegIndex) : (s.takeFault f).getV r = s.getV r := rfl

/-! ### setV -/

@[simp] theorem State.setV_i (x : RegIndex) (b : Byte) : (s.setV x b).i = s.i := rfl
@[simp] theorem State.setV_pc (x : RegIndex) (b : Byte) : (s.setV x b).pc = s.pc := rfl
@[simp] theorem State.setV_sp (x : RegIndex) (b : Byte) : (s.setV x b).sp = s.sp := rfl
@[simp] theorem State.setV_stack (x : RegIndex) (b : Byte) : (s.setV x b).stack = s.stack := rfl
@[simp] theorem State.setV_dt (x : RegIndex) (b : Byte) : (s.setV x b).dt = s.dt := rfl
@[simp] theorem State.setV_st (x : RegIndex) (b : Byte) : (s.setV x b).st = s.st := rfl
@[simp] theorem State.setV_fb (x : RegIndex) (b : Byte) : (s.setV x b).fb = s.fb := rfl
@[simp] theorem State.setV_dirty (x : RegIndex) (b : Byte) : (s.setV x b).dirty = s.dirty := rfl
@[simp] theorem State.setV_key (x : RegIndex) (b : Byte) : (s.setV x b).key = s.key := rfl
@[simp] theorem State.setV_fault (x : RegIndex) (b : Byte) : (s.setV x b).fault = s.fault := rfl
@[simp] theorem State.setV_diag (x : RegIndex) (b : Byte) : (s.setV x b).diag = s.diag := rfl
@[simp] theorem State.setV_mem (x : RegIndex) (b : Byte) : (s.setV x b).mem = s.mem := rfl
@[simp] theorem State.setV_randDraws (x : RegIndex) (b : Byte) : (s.setV x b).randDraws = s.randDraws := rfl
@[simp] theorem State.setV_keyPicks (x : RegIndex) (b : Byte) : (s.setV x b).keyPicks = s.keyPicks := rfl

/-! ### setFlag -/

@[simp] theorem State.setFlag_i (f : Bool) : (s.setFlag f).i = s.i := rfl
@[simp] theorem State.setFlag_pc (f : Bool) : (s.setFlag f).pc = s.pc := rfl
@[simp] theorem State.setFlag_sp (f : Bool) : (s.setFlag f).sp = s.sp := rfl
@[simp] theorem State.setFlag_stack (f : Bool) : (s.setFlag f).stack = s.stack := rfl
@[simp] theorem State.setFlag_dt (f : Bool) : (s.setFlag f).dt = s.dt := rfl
@[simp] theorem State.setFlag_st (f : Bool) : (s.setFlag f).st = s.st := rfl
@[simp] theorem State.setFlag_fb (f : Bool) : (s.setFlag f).fb = s.fb := rfl
@[simp] theorem State.setFlag_dirty (f : Bool) : (s.setFlag f).dirty = s.dirty := rfl
@[simp] theorem State.setFlag_key (f : Bool) : (s.setFlag f).key = s.key := rfl
@[simp] theorem State.setFlag_fault (f : Bool) : (s.setFlag f).fault = s.fault := rfl
@[simp] theorem State.setFlag_diag (f : Bool) : (s.setFlag f).diag = s.diag := rfl
@[simp] theorem State.setFlag_mem (f : Bool) : (s.setFlag f).mem = s.mem := rfl
@[simp] theorem State.setFlag_randDraws (f : Bool) : (s.setFlag f).randDraws = s.randDraws := rfl
@[simp] theorem State.setFlag_keyPicks (f : Bool) : (s.setFlag f).keyPicks = s.keyPicks := rfl

/-! ### setResultFlag -/

@[simp] theorem State.setResultFlag_i (x : RegIndex) (b : Byte) (f : Bool) : (s.setResultFlag x b f).i = s.i := rfl
@[simp] theorem State.setResultFlag_pc (x : RegIndex) (b : Byte) (f : Bool) : (s.setResultFlag x b f).pc = s.pc := rfl
@[simp] theorem State.setResultFlag_sp (x : RegIndex) (b : Byte) (f : Bool) : (s.setResultFlag x b f).sp = s.sp := rfl
@[simp] theorem State.setResultFlag_stack (x : RegIndex) (b : Byte) (f : Bool) : (s.setResultFlag x b f).stack = s.stack := rfl
@[simp] theorem State.setResultFlag_dt (x : RegIndex) (b : Byte) (f : Bool) : (s.setResultFlag x b f).dt = s.dt := rfl
@[simp] theorem State.setResultFlag_st (x : RegIndex) (b : Byte) (f : Bool) : (s.setResultFlag x b f).st = s.st := rfl
@[simp] theorem State.setResultFlag_fb (x : RegIndex) (b : Byte) (f : Bool) : (s.setResultFlag x b f).fb = s.fb := rfl
@[simp] theorem State.setResultFlag_dirty (x : RegIndex) (b : Byte) (f : Bool) : (s.setResultFlag x b f).dirty = s.dirty := rfl
@[simp] theorem State.setResultFlag_key (x : RegIndex) (b : Byte) (f : Bool) : (s.setResultFlag x b f).key = s.key := rfl
@[simp] theorem State.setResultFlag_fault (x : RegIndex) (b : Byte) (f : Bool) : (s.setResultFlag x b f).fault = s.fault := rfl
@[simp] theorem State.setResultFlag_diag (x : RegIndex) (b : Byte) (f : Bool) : (s.setResultFlag x b f).diag = s.diag := rfl
@[simp] theorem State.setResultFlag_mem (x : RegIndex) (b : Byte) (f : Bool) : (s.setResultFlag x b f).mem = s.mem := rfl
@[simp] theorem State.setResultFlag_randDraws (x : RegIndex) (b : Byte) (f : Bool) : (s.setResultFlag x b f).randDraws = s.randDraws := rfl
@[simp] theorem State.setResultFlag_keyPicks (x : RegIndex) (b : Byte) (f : Bool) : (s.setResultFlag x b f).keyPicks = s.keyPicks := rfl

/-! ### setLowRegs -/

@[simp] theorem State.setLowRegs_i (bs : List Byte) : (s.setLowRegs bs).i = s.i := rfl
@[simp] theorem State.setLowRegs_pc (bs : List Byte) : (s.setLowRegs bs).pc = s.pc := rfl
@[simp] theorem State.setLowRegs_sp (bs : List Byte) : (s.setLowRegs bs).sp = s.sp := rfl
@[simp] theorem State.setLowRegs_stack (bs : List Byte) : (s.setLowRegs bs).stack = s.stack := rfl
@[simp] theorem State.setLowRegs_dt (bs : List Byte) : (s.setLowRegs bs).dt = s.dt := rfl
@[simp] theorem State.setLowRegs_st (bs : List Byte) : (s.setLowRegs bs).st = s.st := rfl
@[simp] theorem State.setLowRegs_fb (bs : List Byte) : (s.setLowRegs bs).fb = s.fb := rfl
@[simp] theorem State.setLowRegs_dirty (bs : List Byte) : (s.setLowRegs bs).dirty = s.dirty := rfl
@[simp] theorem State.setLowRegs_key (bs : List Byte) : (s.setLowRegs bs).key = s.key := rfl
@[simp] theorem State.setLowRegs_fault (bs : List Byte) : (s.setLowRegs bs).fault = s.fault := rfl
@[simp] theorem State.setLowRegs_diag (bs : List Byte) : (s.setLowRegs bs).diag = s.diag := rfl
@[simp] theorem State.setLowRegs_mem (bs : List Byte) : (s.setLowRegs bs).mem = s.mem := rfl
@[simp] theorem State.setLowRegs_randDraws (bs : List Byte) : (s.setLowRegs bs).randDraws = s.randDraws := rfl
@[simp] theorem State.setLowRegs_keyPicks (bs : List Byte) : (s.setLowRegs bs).keyPicks = s.keyPicks := rfl

/-! ### The advance, skips and reading registers -/

@[simp] theorem State.skipIf_true : s.skipIf true = s.advance := rfl
@[simp] theorem State.skipIf_false : s.skipIf false = s := rfl

/-- A skip changes pc alone. -/
theorem State.skipIf_eq (c : Bool) : s.skipIf c = s.setPc (if c then s.pc + 2 else s.pc) := by
  cases c <;> rfl

@[simp] theorem State.advance_eq_setPc : s.advance = s.setPc (s.pc + 2) := rfl
@[simp] theorem State.setPc_setPc (w w' : Word) : (s.setPc w).setPc w' = s.setPc w' := rfl
@[simp] theorem State.setPc_self : s.setPc s.pc = s := rfl
@[simp] theorem State.keyDown_setPc (w : Word) (k : Nat) : (s.setPc w).keyDown k = s.keyDown k := rfl
@[simp] theorem State.pressedKeys_setPc (w : Word) : (s.setPc w).pressedKeys = s.pressedKeys := rfl
@[simp] theorem State.base_setPc (w : Word) : (s.setPc w).base = s.base := rfl
@[simp] theorem State.lowRegs_setPc (w : Word) (x : RegIndex) : (s.setPc w).lowRegs x = s.lowRegs x := rfl

/-- A register reads back the last value written to it, and no other register changes (rule R20). -/
@[simp] theorem State.getV_setV (x r : RegIndex) (b : Byte) :
    (s.setV x b).getV r = if r = x then b else s.getV r := by
  simp only [State.getV, State.setV, Vector.getElem_set, ← BitVec.toNat_inj, eq_comm]

@[simp] theorem State.getV_setFlag (f : Bool) (r : RegIndex) :
    (s.setFlag f).getV r = if r = flagReg then flagByte f else s.getV r := State.getV_setV s flagReg r _

/-- The flag is written after the result (rule R152). -/
@[simp] theorem State.getV_setResultFlag (x r : RegIndex) (b : Byte) (f : Bool) :
    (s.setResultFlag x b f).getV r = if r = flagReg then flagByte f else if r = x then b else s.getV r := by
  simp [State.setResultFlag]

/-- The registers the list reaches take its bytes, the others keep their values (rules R200 and R201). -/
@[simp] theorem State.getV_setLowRegs (bs : List Byte) (r : RegIndex) :
    (s.setLowRegs bs).getV r = bs.getD r.toNat (s.getV r) := by
  simp [State.getV, State.setLowRegs]

/-- V0 .. V[x], read one by one (rule R198). -/
theorem State.lowRegs_length (x : RegIndex) : (s.lowRegs x).length = x.toNat + 1 := by
  have := x.isLt
  simp [State.lowRegs]; omega

theorem State.lowRegs_getD (x : RegIndex) (k : Nat) (hk : k ≤ x.toNat) :
    (s.lowRegs x).getD k 0 = s.getV (BitVec.ofNat 4 k) := by
  have hx := x.isLt
  have h16 : k < 16 := by omega
  rw [List.getD_eq_getElem _ _ (by rw [State.lowRegs_length]; omega)]
  simp [State.lowRegs, State.getV, Nat.mod_eq_of_lt h16]

/-- Register files that read the same at every index are equal. -/
theorem State.v_eq_of_getV {s t : State} (h : ∀ r, t.getV r = s.getV r) : t.v = s.v := by
  apply Vector.ext
  intro k hk
  have hr := h (BitVec.ofNat 4 k)
  simp only [State.getV, BitVec.toNat_ofNat, Nat.mod_eq_of_lt hk] at hr
  exact hr

end Sys2Proof.Machine
end

