-- ==== Sys2Proof/Laws/Ops.lean ====
section
/-! SUPPORT. One lemma for each shared operation that says what it can do: `perform`, the call stack, the digits, the
choice among pressed keys, the framebuffer cells and the pixel loop. -/

namespace Sys2Proof.Machine

/-! ### perform (rules R100 and R306) -/

theorem perform_ok {s t : State} {body : State → Except Raised State} (h : body s.advance = .ok t) :
    perform s body = .next t := by simp only [perform, h]

theorem perform_error {s : State} {r : Raised} {body : State → Except Raised State} (h : body s.advance = .error r) :
    perform s body = .next (s.takeFault r) := by simp only [perform, h]

/-- An operation either succeeds from the advanced state, or takes a fault in the state before the step. -/
theorem perform_next {s t : State} {body : State → Except Raised State} (h : perform s body = .next t) :
    body s.advance = .ok t ∨ ∃ r, body s.advance = .error r ∧ t = s.takeFault r := by
  simp only [perform] at h
  split at h
  · next hb => cases h; exact .inl hb
  · next r hb => cases h; exact .inr ⟨r, hb, rfl⟩

/-- Every operation answers a next state (rule R11). -/
theorem perform_isNext (s : State) (body : State → Except Raised State) : ∃ t, perform s body = .next t := by
  simp only [perform]
  split <;> exact ⟨_, rfl⟩

/-! ### The call stack (rules R120 to R125) -/

theorem pushPc_ok (A : Word) {s : State} (h : s.sp.val < 16) :
    pushPc A s = .ok { s with stack := s.stack.set s.sp.val s.pc, sp := ⟨s.sp.val + 1, by omega⟩ } := by
  simp only [pushPc, dif_pos h]

theorem pushPc_full (A : Word) {s : State} (h : ¬ s.sp.val < 16) :
    pushPc A s = .error ⟨.stackOverflow, A.toNat⟩ := by
  simp only [pushPc, dif_neg h]

theorem popPc_ok (A : Word) {s : State} (h : 0 < s.sp.val) :
    popPc A s = .ok { s with sp := ⟨s.sp.val - 1, by omega⟩, pc := s.stack[s.sp.val - 1] } := by
  simp only [popPc, dif_pos h]

theorem popPc_empty (A : Word) {s : State} (h : ¬ 0 < s.sp.val) :
    popPc A s = .error ⟨.stackUnderflow, A.toNat⟩ := by
  simp only [popPc, dif_neg h]

/-! ### Decimal digits (rule R196) -/

@[simp] theorem decimalDigits_length (b : Byte) : (decimalDigits b).length = 3 := rfl

theorem decimalDigits_getD (b : Byte) (k : Nat) : (decimalDigits b).getD k 0 =
    BitVec.ofNat 8 (if k = 0 then b.toNat / 100 else if k = 1 then b.toNat / 10 % 10 else if k = 2 then b.toNat % 10
      else 0) := by
  have hb := b.isLt
  match k with
  | 0 => apply BitVec.eq_of_toNat_eq; simp [decimalDigits]; omega
  | 1 => apply BitVec.eq_of_toNat_eq; simp [decimalDigits]; omega
  | 2 => apply BitVec.eq_of_toNat_eq; simp [decimalDigits]; omega
  | k + 3 => simp [decimalDigits]

/-! ### Keys (rules R252 and R257) -/

theorem keyIndexOf_ok {b : Byte} (h : b.toNat ≤ 15) : keyIndexOf b = .ok b.toNat := by
  simp only [keyIndexOf]; rw [if_neg (by omega)]

theorem keyIndexOf_error {b : Byte} (h : 15 < b.toNat) : keyIndexOf b = .error ⟨.keyIndex, b.toNat⟩ := by
  simp only [keyIndexOf, if_pos h]

@[simp] theorem mem_pressedKeys (s : State) (k : Nat) : k ∈ s.pressedKeys ↔ k < 16 ∧ s.keyDown k = true := by
  simp [State.pressedKeys]

/-- No key of the list is picked exactly when the list is empty. -/
theorem chooseKey_none {c : Nat} {ks : List Nat} : chooseKey c ks = none ↔ ks = [] := by
  cases ks with
  | nil => simp [chooseKey]
  | cons k ks => cases ks <;> simp [chooseKey]

/-- What is picked is one of the list. -/
theorem chooseKey_mem {c k : Nat} {ks : List Nat} (h : chooseKey c ks = some k) : k ∈ ks := by
  match ks, h with
  | [j], h => simpa [chooseKey, eq_comm] using h
  | j :: l :: ks, h =>
    have hlt : c % ((l :: ks).length + 1) < (j :: l :: ks).length := Nat.mod_lt _ (by simp)
    simp only [chooseKey, List.getD_eq_getElem _ _ hlt, Option.some.injEq] at h
    exact h ▸ List.getElem_mem hlt

/-! ### Framebuffer cells (rules R29, R220 and R228) -/

@[simp] theorem fbCell_clear (k : Nat) : fbCell fbClear k = false := by
  simp only [fbCell, fbRow, fbClear, Vector.getElem?_replicate]
  split <;> simp

/-- A flip inverts its cell and no other. -/
theorem fbCell_flip (fb : Framebuffer) {k : Nat} (j : Nat) (hk : k < 2048) :
    fbCell (fbFlip fb k) j = (fbCell fb j ^^ decide (j = k)) := by
  have hrow : k / 64 < 32 := by omega
  have hcol : k % 64 < 64 := Nat.mod_lt _ (by decide)
  simp only [fbCell, fbFlip, fbRow, Vector.getElem?_setIfInBounds]
  by_cases h : k / 64 = j / 64
  · rw [if_pos h, if_pos hrow]
    simp only [Option.getD_some, BitVec.getLsbD_xor, BitVec.getLsbD_twoPow, hcol, decide_true, Bool.true_and, h]
    congr 1
    exact decide_eq_decide.2 ⟨fun e => by omega, fun e => by omega⟩
  · rw [if_neg h]
    have hne : j ≠ k := fun e => h (by rw [e])
    simp [hne]

/-- The cell index of a pixel is always a cell of the framebuffer (rule R226). -/
theorem cellIndex_lt (col row : Nat) : cellIndex col row < 2048 := by
  simp only [cellIndex, Config.fbWidth, Config.fbHeight]; omega

/-! ### Drawing (rules R222 to R228) -/

/-- The pixel loop from any collision so far, over distinct cells. -/
theorem drawCells_foldl (ks : List Nat) : ∀ (fb : Framebuffer) (c : Bool), ks.Nodup → (∀ k ∈ ks, k < 2048) →
    (∀ j, fbCell (ks.foldl drawCell (fb, c)).1 j = (fbCell fb j ^^ decide (j ∈ ks))) ∧
    ((ks.foldl drawCell (fb, c)).2 = (c || ks.any (fbCell fb))) := by
  induction ks with
  | nil => intro fb c _ _; simp
  | cons k ks ih =>
    intro fb c hnd hlt
    obtain ⟨hk, hnd⟩ := List.nodup_cons.1 hnd
    have hk2 : k < 2048 := hlt k (by simp)
    obtain ⟨h1, h2⟩ := ih (fbFlip fb k) (c || fbCell fb k) hnd fun j hj => hlt j (by simp [hj])
    refine ⟨fun j => ?_, ?_⟩
    · show fbCell (ks.foldl drawCell (fbFlip fb k, c || fbCell fb k)).1 j = _
      rw [h1, fbCell_flip fb j hk2]
      by_cases hj : j = k
      · subst hj; simp [hk]
      · simp [hj]
    · show (ks.foldl drawCell (fbFlip fb k, c || fbCell fb k)).2 = _
      rw [h2, List.any_cons, Bool.or_assoc]
      congr 2
      rw [Bool.eq_iff_iff]
      simp only [List.any_eq_true]
      constructor <;> (rintro ⟨j, hj, h⟩; refine ⟨j, hj, ?_⟩; rw [fbCell_flip fb j hk2] at *; have : j ≠ k := fun e => hk (e ▸ hj); simpa [this] using h)

/-- Everything the pixel loop does over distinct cells: it inverts exactly those, and it reports whether one was set (rules
R227 and R228). -/
theorem drawCells_spec (fb : Framebuffer) {ks : List Nat} (hnd : ks.Nodup) (hlt : ∀ k ∈ ks, k < 2048) :
    (∀ j, fbCell (drawCells fb ks).1 j = (fbCell fb j ^^ decide (j ∈ ks))) ∧
    (drawCells fb ks).2 = ks.any (fbCell fb) := by
  simpa [drawCells] using drawCells_foldl ks fb false hnd hlt

/-- The columns of a sprite row are those of its 1 bits, bit 7 leftmost (rule R222). -/
theorem mem_rowColumns (b : Byte) (col : Nat) : col ∈ rowColumns b ↔ col < 8 ∧ b.getLsbD (7 - col) = true := by
  simp [rowColumns]

/-- The target cells of a sprite (rules R223 and R226). -/
theorem mem_spriteCells (px : Nat) (rows : List Byte) : ∀ (py k : Nat), k ∈ spriteCells px py rows ↔
    ∃ row col, row < rows.length ∧ col < 8 ∧ (rows.getD row 0).getLsbD (7 - col) = true ∧
      k = cellIndex (px + col) (py + row) := by
  induction rows with
  | nil => simp [spriteCells]
  | cons b bs ih =>
    intro py k
    simp only [spriteCells, List.mem_append, List.mem_map, mem_rowColumns, ih, List.length_cons]
    constructor
    · rintro (⟨col, ⟨hc, hb⟩, rfl⟩ | ⟨row, col, hr, hc, hb, rfl⟩)
      · exact ⟨0, col, by omega, hc, by simpa using hb, rfl⟩
      · exact ⟨row + 1, col, by omega, hc, by simpa using hb, by rw [Nat.add_assoc, Nat.add_comm 1]⟩
    · rintro ⟨row, col, hr, hc, hb, rfl⟩
      cases row with
      | zero => exact .inl ⟨col, ⟨hc, by simpa using hb⟩, rfl⟩
      | succ row => exact .inr ⟨row, col, by omega, hc, by simpa using hb, by rw [Nat.add_assoc, Nat.add_comm 1]⟩

end Sys2Proof.Machine
end

