-- ==== Sys2Proof/Laws/Exec.lean ====
section
/-! SUPPORT. One lemma per instruction: the next state exec answers, as shared updates of the state before the step. Callers
cite it instead of unfolding the meaning. -/

namespace Sys2Proof.Machine

variable (s : State) (x y : RegIndex) (kk : Byte) (nnn : Addr12) (n : BitVec 4)

/-! ### Operations that cannot fault -/

theorem exec_cls : exec .cls s = .next (s.advance.setFB fbClear) := rfl
theorem exec_sys : exec (.sys nnn) s = .next (decodeFailure (zextAddr nnn) s) := rfl
theorem exec_jp : exec (.jp nnn) s = .next (s.setPc (zextAddr nnn)) := rfl
theorem exec_jpV0 : exec (.jpV0 nnn) s = .next (s.setPc (zextAddr nnn + zextByte (s.getV 0))) := rfl
theorem exec_seImm : exec (.seImm x kk) s = .next (s.advance.skipIf (s.getV x == kk)) := rfl
theorem exec_sneImm : exec (.sneImm x kk) s = .next (s.advance.skipIf (s.getV x != kk)) := rfl
theorem exec_seReg : exec (.seReg x y) s = .next (s.advance.skipIf (s.getV x == s.getV y)) := rfl
theorem exec_sneReg : exec (.sneReg x y) s = .next (s.advance.skipIf (s.getV x != s.getV y)) := rfl
theorem exec_ldImm : exec (.ldImm x kk) s = .next (s.advance.setV x kk) := rfl
theorem exec_addImm : exec (.addImm x kk) s = .next (s.advance.setV x (s.getV x + kk)) := rfl
theorem exec_ldReg : exec (.ldReg x y) s = .next (s.advance.setV x (s.getV y)) := rfl
theorem exec_orReg : exec (.orReg x y) s = .next (s.advance.setV x (s.getV x ||| s.getV y)) := rfl
theorem exec_andReg : exec (.andReg x y) s = .next (s.advance.setV x (s.getV x &&& s.getV y)) := rfl
theorem exec_xorReg : exec (.xorReg x y) s = .next (s.advance.setV x (s.getV x ^^^ s.getV y)) := rfl

theorem exec_addReg : exec (.addReg x y) s =
    .next (s.advance.setResultFlag x (s.getV x + s.getV y) (carryOut (s.getV x) (s.getV y))) := rfl

theorem exec_subReg : exec (.subReg x y) s =
    .next (s.advance.setResultFlag x (s.getV x - s.getV y) (noBorrow (s.getV x) (s.getV y))) := rfl

theorem exec_subnReg : exec (.subnReg x y) s =
    .next (s.advance.setResultFlag x (s.getV y - s.getV x) (noBorrow (s.getV y) (s.getV x))) := rfl

theorem exec_shr : exec (.shr x y) s =
    .next (s.advance.setResultFlag x (s.getV x >>> 1) (shiftedOutRight (s.getV x))) := rfl

theorem exec_shl : exec (.shl x y) s =
    .next (s.advance.setResultFlag x (s.getV x <<< 1) (shiftedOutLeft (s.getV x))) := rfl

theorem exec_rnd : exec (.rnd x kk) s =
    .next (s.advance.setV x (maskedDraw (Config.randByte s.randDraws) kk)).countDraw := rfl

theorem exec_ldI : exec (.ldI nnn) s = .next (s.advance.setI (zextAddr nnn)) := rfl

theorem exec_addI : exec (.addI x) s =
    .next ((s.advance.setI (s.i + zextByte (s.getV x))).setFlag (addressOverflow s.i (s.getV x))) := rfl

theorem exec_ldF : exec (.ldF x) s = .next (s.advance.setI (glyphAddr (s.getV x))) := rfl
theorem exec_ldVxDT : exec (.ldVxDT x) s = .next (s.advance.setV x s.dt) := rfl
theorem exec_ldDTVx : exec (.ldDTVx x) s = .next (s.advance.setDT (s.getV x)) := rfl
theorem exec_ldSTVx : exec (.ldSTVx x) s = .next (s.advance.setST (s.getV x)) := rfl

/-! ### Operations that can fault or wait -/

theorem exec_ret_ok (h : 0 < s.sp.val) : exec .ret s =
    .next { s with sp := ⟨s.sp.val - 1, by omega⟩, pc := s.stack[s.sp.val - 1] } := by
  simp only [exec, execRet, perform]
  rw [show popPc s.pc s.advance = _ from popPc_ok s.pc (s := s.advance) h]
  rfl

theorem exec_ret_empty (h : ¬ 0 < s.sp.val) : exec .ret s = .next (s.takeFault ⟨.stackUnderflow, s.pc.toNat⟩) := by
  simp only [exec, execRet, perform]
  rw [show popPc s.pc s.advance = _ from popPc_empty s.pc (s := s.advance) h]

theorem exec_call_ok (h : s.sp.val < 16) : exec (.call nnn) s =
    .next { s with stack := s.stack.set s.sp.val (s.pc + 2), sp := ⟨s.sp.val + 1, by omega⟩, pc := zextAddr nnn } := by
  simp only [exec, execCall, perform]
  rw [show pushPc s.pc s.advance = _ from pushPc_ok s.pc (s := s.advance) h]
  rfl

theorem exec_call_full (h : ¬ s.sp.val < 16) :
    exec (.call nnn) s = .next (s.takeFault ⟨.stackOverflow, s.pc.toNat⟩) := by
  simp only [exec, execCall, perform]
  rw [show pushPc s.pc s.advance = _ from pushPc_full s.pc (s := s.advance) h]
  rfl

theorem exec_skp_ok (h : (s.getV x).toNat ≤ 15) :
    exec (.skp x) s = .next (s.advance.skipIf (s.keyDown (s.getV x).toNat)) := by
  simp only [exec, execSkp, perform]
  rw [show keyIndexOf (s.advance.getV x) = _ from keyIndexOf_ok h]
  rfl

theorem exec_skp_error (h : 15 < (s.getV x).toNat) :
    exec (.skp x) s = .next (s.takeFault ⟨.keyIndex, (s.getV x).toNat⟩) := by
  simp only [exec, execSkp, perform]
  rw [show keyIndexOf (s.advance.getV x) = _ from keyIndexOf_error h]
  rfl

theorem exec_sknp_ok (h : (s.getV x).toNat ≤ 15) :
    exec (.sknp x) s = .next (s.advance.skipIf (!s.keyDown (s.getV x).toNat)) := by
  simp only [exec, execSknp, perform]
  rw [show keyIndexOf (s.advance.getV x) = _ from keyIndexOf_ok h]
  rfl

theorem exec_sknp_error (h : 15 < (s.getV x).toNat) :
    exec (.sknp x) s = .next (s.takeFault ⟨.keyIndex, (s.getV x).toNat⟩) := by
  simp only [exec, execSknp, perform]
  rw [show keyIndexOf (s.advance.getV x) = _ from keyIndexOf_error h]
  rfl

theorem exec_ldVxK_wait (h : s.pressedKeys = []) : exec (.ldVxK x) s = .next s := by
  simp [exec, execLdVxK, perform, h, chooseKey]

theorem exec_ldVxK_bind {k : Nat} (h : chooseKey (Config.keyChoice s.keyPicks) s.pressedKeys = some k) :
    exec (.ldVxK x) s = .next (s.advance.setV x (BitVec.ofNat 8 k)).countPick := by
  simp [exec, execLdVxK, perform, h]

theorem exec_ldB_ok {m : Memory} (h : writeBytes s.mem s.base (decimalDigits (s.getV x)) = .ok m) :
    exec (.ldB x) s = .next (s.advance.setMem m) := by
  simp only [exec, execLdB, perform]
  rw [show writeBytes s.advance.mem s.advance.base (decimalDigits (s.advance.getV x)) = _ from h]
  rfl

theorem exec_ldB_error {r : Raised} (h : writeBytes s.mem s.base (decimalDigits (s.getV x)) = .error r) :
    exec (.ldB x) s = .next (s.takeFault r) := by
  simp only [exec, execLdB, perform]
  rw [show writeBytes s.advance.mem s.advance.base (decimalDigits (s.advance.getV x)) = _ from h]
  rfl

theorem exec_storeRegs_ok {m : Memory} (h : writeBytes s.mem s.base (s.lowRegs x) = .ok m) :
    exec (.storeRegs x) s = .next (s.advance.setMem m) := by
  simp only [exec, execStoreRegs, perform]
  rw [show writeBytes s.advance.mem s.advance.base (s.advance.lowRegs x) = _ from h]
  rfl

theorem exec_storeRegs_error {r : Raised} (h : writeBytes s.mem s.base (s.lowRegs x) = .error r) :
    exec (.storeRegs x) s = .next (s.takeFault r) := by
  simp only [exec, execStoreRegs, perform]
  rw [show writeBytes s.advance.mem s.advance.base (s.advance.lowRegs x) = _ from h]
  rfl

theorem exec_loadRegs_ok {bs : List Byte} (h : readBytes s.mem s.base (x.toNat + 1) = .ok bs) :
    exec (.loadRegs x) s = .next (s.advance.setLowRegs bs) := by
  simp only [exec, execLoadRegs, perform]
  rw [show readBytes s.advance.mem s.advance.base (x.toNat + 1) = _ from h]
  rfl

theorem exec_loadRegs_error {r : Raised} (h : readBytes s.mem s.base (x.toNat + 1) = .error r) :
    exec (.loadRegs x) s = .next (s.takeFault r) := by
  simp only [exec, execLoadRegs, perform]
  rw [show readBytes s.advance.mem s.advance.base (x.toNat + 1) = _ from h]
  rfl

theorem exec_drw_ok {rows : List Byte} (h : readBytes s.mem s.base n.toNat = .ok rows) :
    exec (.drw x y n) s =
      .next ((s.advance.setFB (drawCells s.fb (spriteCells (s.getV x).toNat (s.getV y).toNat rows)).1).setFlag
        (drawCells s.fb (spriteCells (s.getV x).toNat (s.getV y).toNat rows)).2) := by
  simp only [exec, execDrw, perform]
  rw [show readBytes s.advance.mem s.advance.base n.toNat = _ from h]
  rfl

theorem exec_drw_error {r : Raised} (h : readBytes s.mem s.base n.toNat = .error r) :
    exec (.drw x y n) s = .next (s.takeFault r) := by
  simp only [exec, execDrw, perform]
  rw [show readBytes s.advance.mem s.advance.base n.toNat = _ from h]
  rfl

/-- Every instruction answers a next state (rule R11). -/
theorem exec_isNext (i : Instr) : ∃ t, exec i s = .next t := by
  cases i <;> first
    | exact ⟨_, rfl⟩
    | (simp only [exec, execRet, execCall, execSkp, execSknp, execLdVxK, execLdB, execStoreRegs, execLoadRegs, execDrw]
       exact perform_isNext s _)

end Sys2Proof.Machine
end

