-- ==== Sys2Proof/Laws/PerInstr.lean ====
section
/-! SUPPORT. One lemma per constructor: the word of every instruction has the fixed bits of its row of
spec/opcode_table.json (a word w selects a row when w & mask = match, rule R84). -/

namespace Sys2Proof

/-- The `mask` of an instruction's row of spec/opcode_table.json. -/
def tableMask : Instr → Word
  | .cls | .ret => 0xFFFF
  | .sys _ | .jp _ | .call _ | .ldI _ | .jpV0 _ => 0xF000
  | .seImm _ _ | .sneImm _ _ | .ldImm _ _ | .addImm _ _ | .rnd _ _ | .drw _ _ _ => 0xF000
  | .seReg _ _ | .sneReg _ _ | .ldReg _ _ | .orReg _ _ | .andReg _ _ | .xorReg _ _ => 0xF00F
  | .addReg _ _ | .subReg _ _ | .shr _ _ | .subnReg _ _ | .shl _ _ => 0xF00F
  | .skp _ | .sknp _ | .ldVxDT _ | .ldVxK _ | .ldDTVx _ | .ldSTVx _ | .addI _ | .ldF _ => 0xF0FF
  | .ldB _ | .storeRegs _ | .loadRegs _ => 0xF0FF

/-- The `match` of an instruction's row of spec/opcode_table.json. -/
def tableMatch : Instr → Word
  | .cls => 0x00E0
  | .ret => 0x00EE
  | .sys _ => 0x0000
  | .jp _ => 0x1000
  | .call _ => 0x2000
  | .seImm _ _ => 0x3000
  | .sneImm _ _ => 0x4000
  | .seReg _ _ => 0x5000
  | .ldImm _ _ => 0x6000
  | .addImm _ _ => 0x7000
  | .ldReg _ _ => 0x8000
  | .orReg _ _ => 0x8001
  | .andReg _ _ => 0x8002
  | .xorReg _ _ => 0x8003
  | .addReg _ _ => 0x8004
  | .subReg _ _ => 0x8005
  | .shr _ _ => 0x8006
  | .subnReg _ _ => 0x8007
  | .shl _ _ => 0x800E
  | .sneReg _ _ => 0x9000
  | .ldI _ => 0xA000
  | .jpV0 _ => 0xB000
  | .rnd _ _ => 0xC000
  | .drw _ _ _ => 0xD000
  | .skp _ => 0xE09E
  | .sknp _ => 0xE0A1
  | .ldVxDT _ => 0xF007
  | .ldVxK _ => 0xF00A
  | .ldDTVx _ => 0xF015
  | .ldSTVx _ => 0xF018
  | .addI _ => 0xF01E
  | .ldF _ => 0xF029
  | .ldB _ => 0xF033
  | .storeRegs _ => 0xF055
  | .loadRegs _ => 0xF065

theorem and_fifteen (o : BitVec 4) : o &&& 0xF#4 = o := BitVec.and_allOnes

/-- Masking the primary selector alone. -/
theorem wordNnn_masked (o : BitVec 4) (nnn : Addr12) : wordNnn o nnn &&& 0xF000 = wordNnn o 0 := by
  rw [show (0xF000 : Word) = 0xF#4 ++ 0x000#12 by decide, wordNnn, wordNnn, BitVec.and_append]
  simp [and_fifteen]

theorem wordXkk_masked_op (o x : BitVec 4) (kk : Byte) : wordXkk o x kk &&& 0xF000 = wordXkk o 0 0 := by
  rw [show (0xF000 : Word) = (0xF#4 ++ 0x0#4) ++ 0x00#8 by decide, wordXkk, wordXkk, BitVec.and_append,
    BitVec.and_append]
  simp [and_fifteen]

theorem wordXkk_masked (o x : BitVec 4) (kk : Byte) : wordXkk o x kk &&& 0xF0FF = wordXkk o 0 kk := by
  rw [show (0xF0FF : Word) = (0xF#4 ++ 0x0#4) ++ 0xFF#8 by decide, wordXkk, wordXkk, BitVec.and_append,
    BitVec.and_append]
  congr 1
  · simp [and_fifteen]
  · exact BitVec.and_allOnes

theorem wordXyn_masked_op (o x y n : BitVec 4) : wordXyn o x y n &&& 0xF000 = wordXyn o 0 0 0 := by
  rw [show (0xF000 : Word) = ((0xF#4 ++ 0x0#4) ++ 0x0#4) ++ 0x0#4 by decide, wordXyn, wordXyn, BitVec.and_append,
    BitVec.and_append, BitVec.and_append]
  simp [and_fifteen]

theorem wordXyn_masked (o x y n : BitVec 4) : wordXyn o x y n &&& 0xF00F = wordXyn o 0 0 n := by
  rw [show (0xF00F : Word) = ((0xF#4 ++ 0x0#4) ++ 0x0#4) ++ 0xF#4 by decide, wordXyn, wordXyn, BitVec.and_append,
    BitVec.and_append, BitVec.and_append]
  simp [and_fifteen]

/-- The word of the instruction has its row's fixed bits. -/
def Laws.TablePattern.Statement (i : Instr) : Prop := encode i &&& tableMask i = tableMatch i

namespace Laws.TablePattern

theorem cls : Statement .cls := rfl

theorem ret : Statement .ret := rfl

theorem sys (nnn : Addr12) : Statement (.sys nnn) :=
  (wordNnn_masked _ _).trans rfl

theorem jp (nnn : Addr12) : Statement (.jp nnn) :=
  (wordNnn_masked _ _).trans rfl

theorem call (nnn : Addr12) : Statement (.call nnn) :=
  (wordNnn_masked _ _).trans rfl

theorem seImm (x : RegIndex) (kk : Byte) : Statement (.seImm x kk) :=
  (wordXkk_masked_op _ _ _).trans rfl

theorem sneImm (x : RegIndex) (kk : Byte) : Statement (.sneImm x kk) :=
  (wordXkk_masked_op _ _ _).trans rfl

theorem seReg (x y : RegIndex) : Statement (.seReg x y) :=
  (wordXyn_masked _ _ _ _).trans rfl

theorem ldImm (x : RegIndex) (kk : Byte) : Statement (.ldImm x kk) :=
  (wordXkk_masked_op _ _ _).trans rfl

theorem addImm (x : RegIndex) (kk : Byte) : Statement (.addImm x kk) :=
  (wordXkk_masked_op _ _ _).trans rfl

theorem ldReg (x y : RegIndex) : Statement (.ldReg x y) :=
  (wordXyn_masked _ _ _ _).trans rfl

theorem orReg (x y : RegIndex) : Statement (.orReg x y) :=
  (wordXyn_masked _ _ _ _).trans rfl

theorem andReg (x y : RegIndex) : Statement (.andReg x y) :=
  (wordXyn_masked _ _ _ _).trans rfl

theorem xorReg (x y : RegIndex) : Statement (.xorReg x y) :=
  (wordXyn_masked _ _ _ _).trans rfl

theorem addReg (x y : RegIndex) : Statement (.addReg x y) :=
  (wordXyn_masked _ _ _ _).trans rfl

theorem subReg (x y : RegIndex) : Statement (.subReg x y) :=
  (wordXyn_masked _ _ _ _).trans rfl

theorem shr (x y : RegIndex) : Statement (.shr x y) :=
  (wordXyn_masked _ _ _ _).trans rfl

theorem subnReg (x y : RegIndex) : Statement (.subnReg x y) :=
  (wordXyn_masked _ _ _ _).trans rfl

theorem shl (x y : RegIndex) : Statement (.shl x y) :=
  (wordXyn_masked _ _ _ _).trans rfl

theorem sneReg (x y : RegIndex) : Statement (.sneReg x y) :=
  (wordXyn_masked _ _ _ _).trans rfl

theorem ldI (nnn : Addr12) : Statement (.ldI nnn) :=
  (wordNnn_masked _ _).trans rfl

theorem jpV0 (nnn : Addr12) : Statement (.jpV0 nnn) :=
  (wordNnn_masked _ _).trans rfl

theorem rnd (x : RegIndex) (kk : Byte) : Statement (.rnd x kk) :=
  (wordXkk_masked_op _ _ _).trans rfl

theorem drw (x y : RegIndex) (n : BitVec 4) : Statement (.drw x y n) :=
  (wordXyn_masked_op _ _ _ _).trans rfl

theorem skp (x : RegIndex) : Statement (.skp x) :=
  (wordXkk_masked _ _ _).trans rfl

theorem sknp (x : RegIndex) : Statement (.sknp x) :=
  (wordXkk_masked _ _ _).trans rfl

theorem ldVxDT (x : RegIndex) : Statement (.ldVxDT x) :=
  (wordXkk_masked _ _ _).trans rfl

theorem ldVxK (x : RegIndex) : Statement (.ldVxK x) :=
  (wordXkk_masked _ _ _).trans rfl

theorem ldDTVx (x : RegIndex) : Statement (.ldDTVx x) :=
  (wordXkk_masked _ _ _).trans rfl

theorem ldSTVx (x : RegIndex) : Statement (.ldSTVx x) :=
  (wordXkk_masked _ _ _).trans rfl

theorem addI (x : RegIndex) : Statement (.addI x) :=
  (wordXkk_masked _ _ _).trans rfl

theorem ldF (x : RegIndex) : Statement (.ldF x) :=
  (wordXkk_masked _ _ _).trans rfl

theorem ldB (x : RegIndex) : Statement (.ldB x) :=
  (wordXkk_masked _ _ _).trans rfl

theorem storeRegs (x : RegIndex) : Statement (.storeRegs x) :=
  (wordXkk_masked _ _ _).trans rfl

theorem loadRegs (x : RegIndex) : Statement (.loadRegs x) :=
  (wordXkk_masked _ _ _).trans rfl

end Laws.TablePattern

end Sys2Proof
end

