-- ==== Sys2Proof/Laws/Step.lean ====
section
/-! SUPPORT. What a step can do, said once (rule R100): nothing when halted, a fetch fault, a decode failure, or the fetched
instruction. -/

namespace Sys2Proof.Machine

/-- The fetch in one equation (rule R102). -/
theorem fetchWord_eq (s : State) :
    fetchWord s =
      if 0x1000 ≤ s.pc.toNat + 1 then .error ⟨.fetchRange, s.pc.toNat⟩
      else .ok (s.mem.read s.pc.toNat ++ s.mem.read (s.pc.toNat + 1)) := rfl

theorem fetchWord_ok {s : State} {w : Word} (h : fetchWord s = .ok w) :
    s.pc.toNat + 1 < 0x1000 ∧ w = s.mem.read s.pc.toNat ++ s.mem.read (s.pc.toNat + 1) := by
  rw [fetchWord_eq] at h
  split at h
  · cases h
  · next hr => cases h; exact ⟨by omega, rfl⟩

theorem fetchWord_error {s : State} {r : Raised} (h : fetchWord s = .error r) :
    0x1000 ≤ s.pc.toNat + 1 ∧ r = ⟨.fetchRange, s.pc.toNat⟩ := by
  rw [fetchWord_eq] at h
  split at h
  · next hr => cases h; exact ⟨hr, rfl⟩
  · cases h

theorem step_halted {s : State} (h : s.fault ≠ none) : step s = .next s := by
  cases hf : s.fault with
  | none => exact absurd hf h
  | some f => simp only [step, hf]

theorem step_fetchFault {s : State} {r : Raised} (hf : s.fault = none) (h : fetchWord s = .error r) :
    step s = .next (s.takeFault r) := by simp only [step, hf, h]

theorem step_decodeFailure {s : State} {w : Word} {e : DecodeReject} (hf : s.fault = none) (h : fetchWord s = .ok w)
    (hd : decode w = .error e) : step s = .next (decodeFailure w s) := by simp only [step, hf, h, hd]

theorem step_exec {s : State} {w : Word} {i : Instr} (hf : s.fault = none) (h : fetchWord s = .ok w)
    (hd : decode w = .ok i) : step s = exec i s := by simp only [step, hf, h, hd]

/-- Every way a step can answer a next state. -/
theorem step_cases {s t : State} (h : step s = .next t) :
    (s.fault ≠ none ∧ t = s) ∨
    (s.fault = none ∧ ∃ r, fetchWord s = .error r ∧ t = s.takeFault r) ∨
    (s.fault = none ∧ ∃ w e, fetchWord s = .ok w ∧ decode w = .error e ∧ t = decodeFailure w s) ∨
    (s.fault = none ∧ ∃ w i, fetchWord s = .ok w ∧ decode w = .ok i ∧ exec i s = .next t) := by
  cases hf : s.fault with
  | some f =>
    rw [step_halted (by simp [hf])] at h
    cases h
    exact .inl ⟨by simp, rfl⟩
  | none =>
    cases hw : fetchWord s with
    | error r =>
      rw [step_fetchFault hf hw] at h
      cases h
      exact .inr (.inl ⟨rfl, r, rfl, rfl⟩)
    | ok w =>
      cases hd : decode w with
      | error e =>
        rw [step_decodeFailure hf hw hd] at h
        cases h
        exact .inr (.inr (.inl ⟨rfl, w, e, rfl, hd, rfl⟩))
      | ok i =>
        rw [step_exec hf hw hd] at h
        exact .inr (.inr (.inr ⟨rfl, w, i, rfl, hd, h⟩))

/-- What a decode failure changes: pc and DIAG (rule R109). -/
theorem decodeFailure_eq (w : Word) (s : State) :
    decodeFailure w s = { s with pc := s.pc + 2, diag := s.diag ++ [⟨w, s.pc⟩] } := rfl

end Sys2Proof.Machine
end

