-- ==== Sys2Proof/Tests/Slice0.lean ====
section
/-! SUPPORT. Tests of one decoding or one step each. The expected values are those of spec/95_test_vectors.md, whose row is
named in a comment, or of the instruction rules' own examples. After them, one witness for each hypothesis clause of the
statements in Sys2Proof/Certificates/Slice0/Obligations.lean. -/

namespace Sys2Proof.Tests.Slice0

open Sys2Proof Sys2Proof.Machine

/-! ### Helpers -/

/-- The next state of an outcome. -/
def after : Host.Outcome State Fault Refusal → Option State
  | .next t => some t
  | .fault _ => none
  | .refused _ => none

/-- The reset state with some registers and I set. -/
def start (regs : List (RegIndex × Byte)) (i : Word) : State :=
  regs.foldl (fun s p => s.setV p.1 p.2) (State.reset.setI i)

/-- The start state with bytes stored from address `a` on. -/
def stored (s : State) (a : Nat) (bs : List Byte) : State := s.setMem (s.mem.writeList a bs)

/-- One step that fetches the word `w`, and what `f` sees of the state after it. -/
def sees {α : Type} (s : State) (w : Nat) (f : State → α) : Option α := (after (step (s.withFetchWord 16 w))).map f

/-- Code, info and address of the recorded fault. -/
def faultOf (t : State) : Option (Nat × Nat × Word) := portFault t

/-! ### Well-formedness: the two words that are not SYS (rule R84 row 3) -/

theorem test_sys_0E0_is_ill_formed : (Instr.sys 0x0E0).wellFormed = false := by decide
theorem test_sys_0EE_is_ill_formed : (Instr.sys 0x0EE).wellFormed = false := by decide
theorem test_sys_0E1_is_well_formed : (Instr.sys 0x0E1).wellFormed = true := by decide

/-! ### Decoding: words written out bit by bit from the patterns of rule R84 -/

theorem test_decode_selector0 :
    decode 0b0000000011100000 = .ok .cls ∧ decode 0b0000000011101110 = .ok .ret ∧
    decode 0b0000000100100011 = .ok (.sys 0x123) ∧ decode 0b0000000111100000 = .ok (.sys 0x1E0) := by decide

theorem test_decode_jumps :
    decode 0b0001001000110100 = .ok (.jp 0x234) ∧ decode 0b0010001100000000 = .ok (.call 0x300) ∧
    decode 0b1011111111111110 = .ok (.jpV0 0xFFE) := by decide

theorem test_decode_skips :
    decode 0b0011001100010000 = .ok (.seImm 0x3 0x10) ∧ decode 0b0100001100010001 = .ok (.sneImm 0x3 0x11) ∧
    decode 0b0101000100100000 = .ok (.seReg 0x1 0x2) ∧ decode 0b1001000100100000 = .ok (.sneReg 0x1 0x2) ∧
    decode 0b1110010010011110 = .ok (.skp 0x4) ∧ decode 0b1110010010100001 = .ok (.sknp 0x4) := by decide

theorem test_decode_immediates :
    decode 0b0110101001000010 = .ok (.ldImm 0xA 0x42) ∧ decode 0b0111000100000010 = .ok (.addImm 0x1 0x02) ∧
    decode 0b1010001011110000 = .ok (.ldI 0x2F0) ∧ decode 0b1100001100001111 = .ok (.rnd 0x3 0x0F) := by decide

theorem test_decode_selector8 :
    decode 0b1000000100100000 = .ok (.ldReg 0x1 0x2) ∧ decode 0b1000000100100001 = .ok (.orReg 0x1 0x2) ∧
    decode 0b1000000100100010 = .ok (.andReg 0x1 0x2) ∧ decode 0b1000000100100011 = .ok (.xorReg 0x1 0x2) ∧
    decode 0b1000000100100100 = .ok (.addReg 0x1 0x2) ∧ decode 0b1000000100100101 = .ok (.subReg 0x1 0x2) ∧
    decode 0b1000000100100110 = .ok (.shr 0x1 0x2) ∧ decode 0b1000000100100111 = .ok (.subnReg 0x1 0x2) ∧
    decode 0b1000000100101110 = .ok (.shl 0x1 0x2) := by decide

theorem test_decode_draw : decode 0b1101000100100101 = .ok (.drw 0x1 0x2 0x5) := by decide

theorem test_decode_selectorF :
    decode 0b1111000100000111 = .ok (.ldVxDT 0x1) ∧ decode 0b1111001100001010 = .ok (.ldVxK 0x3) ∧
    decode 0b1111000100010101 = .ok (.ldDTVx 0x1) ∧ decode 0b1111001000011000 = .ok (.ldSTVx 0x2) ∧
    decode 0b1111000100011110 = .ok (.addI 0x1) ∧ decode 0b1111001000101001 = .ok (.ldF 0x2) ∧
    decode 0b1111010100110011 = .ok (.ldB 0x5) ∧ decode 0b1111001001010101 = .ok (.storeRegs 0x2) ∧
    decode 0b1111000101100101 = .ok (.loadRegs 0x1) := by decide

/-- V9 to V11 and V32. -/
theorem test_decode_rejects :
    decode 0x8128 = .error (.selector8 0x8) ∧ decode 0xE1FF = .error (.selectorE 0xFF) ∧
    decode 0xF1FF = .error (.selectorF 0xFF) ∧ decode 0x5121 = .error (.selector5 0x1) ∧
    decode 0x9121 = .error (.selector9 0x1) ∧ decodeBytes [0x60] = .error .shortWord := by decide

/-- S9: the fields of 0xD125. -/
theorem test_fields : opField 0xD125 = 0xD ∧ xField 0xD125 = 1 ∧ yField 0xD125 = 2 ∧ nField 0xD125 = 5 ∧
    kkField 0xD125 = 0x25 ∧ nnnField 0xD125 = 0x125 := by decide

theorem test_encode_words : encode (.drw 0x1 0x2 0x5) = 0xD125 ∧ encode (.sys 0x123) = 0x0123 ∧
    encode (.ldB 0x5) = 0xF533 := by decide

/-! ### The cycle (40_cycle.md) -/

/-- V2: the last word of memory. -/
theorem test_fetch_last_word :
    sees (State.reset.setPc 0x0FFE) 0x6001 (fun t => (t.getV 0, t.pc)) = some (0x01, 0x1000) := by decide

/-- V4: the second byte is outside memory. -/
theorem test_fetch_range : (after (step (State.reset.setPc 0x0FFF))).map (fun t => (faultOf t, t.pc)) =
    some (some (1, 0x0FFF, 0x0FFF), 0x0FFF) := by decide

/-- V5: an odd pc. -/
theorem test_fetch_odd : sees (State.reset.setPc 0x0201) 0x6012 (fun t => (t.getV 0, t.pc)) = some (0x12, 0x0203) := by
  decide

/-- V9: a decode failure is recorded at its own address. -/
theorem test_decode_failure : sees (start [(1, 0x77)] 0) 0x8128 (fun t => (t.pc, t.diag, t.getV 1)) =
    some (0x0202, [⟨0x8128, 0x0200⟩], 0x77) := by decide

/-- V7. -/
theorem test_sys : sees State.reset 0x0123 (fun t => (t.pc, t.diag)) = some (0x0202, [⟨0x0123, 0x0200⟩]) := by decide

/-! ### Control flow (41_control_flow.md) -/

/-- V23, V24. -/
theorem test_ret : sees { State.reset with pc := 0x0300, sp := 1, stack := State.reset.stack.set 0 0x0202 } 0x00EE
    (fun t => (t.sp, t.pc, t.stack[0])) = some (0, 0x0202, 0x0202) := by decide
theorem test_ret_empty : sees (State.reset.setPc 0x0300) 0x00EE (fun t => (faultOf t, t.pc)) =
    some (some (6, 0x0300, 0x0300), 0x0300) := by decide

/-- V20. -/
theorem test_jp : sees State.reset 0x1234 (fun t => t.pc) = some 0x0234 := by decide

/-- V22, V25. -/
theorem test_call : sees State.reset 0x2300 (fun t => (t.stack[0], t.sp, t.pc)) = some (0x0202, 1, 0x0300) := by decide
theorem test_call_full : sees { State.reset with sp := 16 } 0x2300 (fun t => (faultOf t, t.sp)) =
    some (some (5, 0x0200, 0x0200), 16) := by decide

/-- V26, V27. -/
theorem test_seImm_taken : sees (start [(3, 0x10)] 0) 0x3310 (fun t => t.pc) = some 0x0204 := by decide
theorem test_seImm_not_taken : sees (start [(3, 0x10)] 0) 0x3311 (fun t => t.pc) = some 0x0202 := by decide

/-- V28, V29. -/
theorem test_sneImm_not_taken : sees (start [(3, 0x10)] 0) 0x4310 (fun t => t.pc) = some 0x0202 := by decide
theorem test_sneImm_taken : sees (start [(3, 0x10)] 0) 0x4311 (fun t => t.pc) = some 0x0204 := by decide

/-- V30, V33. -/
theorem test_seReg : sees (start [(1, 7), (2, 7)] 0) 0x5120 (fun t => t.pc) = some 0x0204 := by decide
theorem test_sneReg : sees (start [(1, 7), (2, 8)] 0) 0x9120 (fun t => t.pc) = some 0x0204 := by decide

/-- V34. -/
theorem test_sneReg_same : sees (start [(1, 7)] 0) 0x9110 (fun t => t.pc) = some 0x0202 := by decide

/-- V35, V36: the sum is not masked. -/
theorem test_jpV0 : sees (start [(0, 0x04)] 0) 0xB300 (fun t => t.pc) = some 0x0304 := by decide
theorem test_jpV0_unmasked : sees (start [(0, 0xFF)] 0) 0xBFFF (fun t => t.pc) = some 0x10FE := by decide

/-! ### Loads and the ALU (42_alu.md) -/

/-- V40. -/
theorem test_ldImm : sees (start [(0xF, 0x55)] 0) 0x6A42 (fun t => (t.getV 0xA, t.getV 0xF, t.pc)) =
    some (0x42, 0x55, 0x0202) := by decide

/-- V42: the carry is lost and VF kept. -/
theorem test_addImm : sees (start [(0xF, 0x55), (1, 0xFF)] 0) 0x7102 (fun t => (t.getV 1, t.getV 0xF)) =
    some (0x01, 0x55) := by decide

/-- V44. -/
theorem test_ldReg : sees (start [(2, 0x37)] 0) 0x8120 (fun t => (t.getV 1, t.getV 2)) = some (0x37, 0x37) := by decide

/-- V45 to V47. -/
theorem test_orReg : sees (start [(0xF, 0x55), (1, 0x0F), (2, 0xF0)] 0) 0x8121 (fun t => (t.getV 1, t.getV 0xF)) =
    some (0xFF, 0x55) := by decide
theorem test_andReg : sees (start [(0xF, 0x55), (1, 0x3C), (2, 0x0F)] 0) 0x8122 (fun t => (t.getV 1, t.getV 0xF)) =
    some (0x0C, 0x55) := by decide
theorem test_xorReg : sees (start [(0xF, 0x55), (1, 0xFF), (2, 0x0F)] 0) 0x8123 (fun t => (t.getV 1, t.getV 0xF)) =
    some (0xF0, 0x55) := by decide

/-- V52, V53: the carry, and the flag over the result. -/
theorem test_addReg : sees (start [(0xF, 0x55), (1, 0xFF), (2, 0xFF)] 0) 0x8124 (fun t => (t.getV 1, t.getV 0xF)) =
    some (0xFE, 0x01) := by decide
theorem test_addReg_into_VF : sees (start [(0xF, 0x10), (1, 0x20)] 0) 0x8F14 (fun t => t.getV 0xF) = some 0x00 := by
  decide

/-- V56, V57. -/
theorem test_subReg_equal : sees (start [(0xF, 0x55), (1, 3), (2, 3)] 0) 0x8125 (fun t => (t.getV 1, t.getV 0xF)) =
    some (0x00, 0x01) := by decide
theorem test_subReg_borrow : sees (start [(0xF, 0x55), (1, 0), (2, 1)] 0) 0x8125 (fun t => (t.getV 1, t.getV 0xF)) =
    some (0xFF, 0x00) := by decide

/-- V60, V61: Vy is not read, and the flag over the result. -/
theorem test_shr : sees (start [(0xF, 0x55), (1, 0x80), (2, 0xFF)] 0) 0x8126 (fun t => (t.getV 1, t.getV 0xF)) =
    some (0x40, 0x00) := by decide
theorem test_shr_VF : sees (start [(0xF, 0x03)] 0) 0x8F06 (fun t => t.getV 0xF) = some 0x01 := by decide

/-- V63, V64. -/
theorem test_subnReg : sees (start [(1, 3), (2, 5)] 0) 0x8127 (fun t => (t.getV 1, t.getV 0xF)) = some (0x02, 0x01) := by
  decide
theorem test_subnReg_borrow : sees (start [(1, 5), (2, 3)] 0) 0x8127 (fun t => (t.getV 1, t.getV 0xF)) =
    some (0xFE, 0x00) := by decide

/-- V66, V67. -/
theorem test_shl : sees (start [(1, 0x81)] 0) 0x810E (fun t => (t.getV 1, t.getV 0xF)) = some (0x02, 0x01) := by decide
theorem test_shl_no_carry : sees (start [(1, 0x7F)] 0) 0x810E (fun t => (t.getV 1, t.getV 0xF)) = some (0xFE, 0x00) := by
  decide

/-- V69, and V70 for every draw. -/
theorem test_rnd_mask : maskedDraw 0xA7 0x0F = 0x07 := by decide
theorem test_rnd_zero_mask : ∃ t, exec (.rnd 3 0x00) (start [(3, 0x99)] 0) = .next t ∧ t.getV 3 = 0x00 :=
  ⟨_, exec_rnd _ _ _, by simp [maskedDraw]⟩

/-! ### Address register and memory (43_address_memory.md) -/

/-- V80. -/
theorem test_ldI : sees State.reset 0xA2F0 (fun t => t.i) = some 0x02F0 := by decide

/-- V82, V83. -/
theorem test_addI_in_range : sees (start [(1, 0x01), (0xF, 0x55)] 0x0FFE) 0xF11E (fun t => (t.i, t.getV 0xF)) =
    some (0x0FFF, 0x00) := by decide
theorem test_addI_wraps : sees (start [(1, 0x02)] 0xFFFF) 0xF11E (fun t => (t.i, t.getV 0xF)) = some (0x0001, 0x01) := by
  decide

/-- V85, V87: no mask. -/
theorem test_ldF : sees (start [(2, 0x0A)] 0) 0xF229 (fun t => t.i) = some 0x0032 := by decide
theorem test_ldF_unmasked : sees (start [(2, 0xFF)] 0) 0xF229 (fun t => t.i) = some 0x04FB := by decide

/-- V88, V92. -/
theorem test_ldB : sees (start [(5, 0xFE)] 0x0300) 0xF533
    (fun t => (t.mem.read 0x300, t.mem.read 0x301, t.mem.read 0x302)) = some (0x02, 0x05, 0x04) := by decide
theorem test_ldB_range : sees (start [(5, 0xFE)] 0x0FFE) 0xF533 (fun t => (faultOf t, t.mem.read 0xFFE, t.pc)) =
    some (some (3, 0x1000, 0x0200), 0x00, 0x0200) := by decide

/-- V94, V97. -/
theorem test_storeRegs : sees (start [(0, 1), (1, 2), (2, 3), (3, 4)] 0x0400) 0xF255
    (fun t => (t.mem.read 0x400, t.mem.read 0x401, t.mem.read 0x402, t.mem.read 0x403, t.i)) =
    some (0x01, 0x02, 0x03, 0x00, 0x0400) := by decide
theorem test_storeRegs_reserved : sees (start [(0, 1)] 0x0000) 0xF055 (fun t => (faultOf t, t.mem.read 0)) =
    some (some (4, 0x0000, 0x0200), 0xF0) := by decide

/-- V99, V101. -/
theorem test_loadRegs_font : sees (start [(5, 0x99)] 0x0000) 0xF465
    (fun t => (t.getV 0, t.getV 1, t.getV 2, t.getV 3, t.getV 4, t.getV 5)) =
    some (0xF0, 0x90, 0x90, 0x90, 0xF0, 0x99) := by decide
theorem test_loadRegs_range : sees (start [(0, 0x99)] 0x0FF8) 0xFF65 (fun t => (faultOf t, t.getV 0)) =
    some (some (2, 0x1000, 0x0200), 0x99) := by decide

/-! ### Display (44_display.md) -/

/-- V110. -/
theorem test_cls : sees { start [(0xF, 0x55)] 0 with fb := Vector.replicate 32 0xFF } 0x00E0
    (fun t => (decide (t.fb = fbClear), t.dirty, t.getV 0xF)) = some (true, true, 0x55) := by decide

/-- V114: the columns wrap in their own row. -/
theorem test_drw_wraps : sees (stored (start [(0, 0x3F), (1, 0x1F), (0xF, 0x55)] 0x0300) 0x300 [0xFF]) 0xD011
    (fun t => (t.fb[31], t.fb[0], t.getV 0xF, t.dirty)) = some (0x800000000000007F, 0, 0x00, true) := by decide

/-- V120: one cell on, one off, a collision. -/
theorem test_drw_collides :
    sees { stored (start [] 0x0300) 0x300 [0xC0] with fb := State.reset.fb.set 0 0x2 } 0xD011
      (fun t => (t.fb[0], t.getV 0xF)) = some (0x1, 0x01) := by decide

/-! ### Keys and timers (45_keys_timers.md) -/

/-- V130, V134. -/
theorem test_skp : sees { start [(4, 0x0A)] 0 with key := 0x0400 } 0xE49E (fun t => t.pc) = some 0x0204 := by decide
theorem test_skp_index : sees (start [(4, 0x10)] 0) 0xE49E (fun t => (faultOf t, t.pc)) =
    some (some (7, 0x10, 0x0200), 0x0200) := by decide

/-- V132, V133. -/
theorem test_sknp : sees (start [(4, 0x0A)] 0) 0xE4A1 (fun t => t.pc) = some 0x0204 := by decide
theorem test_sknp_pressed : sees { start [(4, 0x0A)] 0 with key := 0x0400 } 0xE4A1 (fun t => t.pc) = some 0x0202 := by
  decide

/-- V135, V136. -/
theorem test_ldVxK_waits : after (step (State.reset.withFetchWord 16 0xF30A)) =
    some (State.reset.withFetchWord 16 0xF30A) := by decide
theorem test_ldVxK_binds : sees { State.reset with key := 0x0020 } 0xF30A (fun t => (t.getV 3, t.pc)) =
    some (0x05, 0x0202) := by decide

/-- V138 to V140. -/
theorem test_ldVxDT : sees (State.reset.setDT 0x3C) 0xF107 (fun t => t.getV 1) = some 0x3C := by decide
theorem test_ldDTVx : sees (start [(1, 0x3C)] 0) 0xF115 (fun t => (t.dt, t.st)) = some (0x3C, 0x00) := by decide
theorem test_ldSTVx : sees (start [(2, 0x05)] 0) 0xF218 (fun t => (t.dt, t.st)) = some (0x00, 0x05) := by decide

/-! ### The host's ports (70_reset_and_hazards.md) -/

/-- V142. -/
theorem test_tick : ((portTick { State.reset with dt := 0x01, st := 0xFF }).dt,
    (portTick { State.reset with dt := 0x01, st := 0xFF }).st) = (0x00, 0xFE) := by decide

/-- V141. -/
theorem test_tick_floor : portTick State.reset = State.reset := by decide

/-- V150: the first and last glyph, and the byte after the font. -/
theorem test_reset_font : State.reset.mem.read 0x000 = 0xF0 ∧ State.reset.mem.read 0x001 = 0x90 ∧
    State.reset.mem.read 0x04E = 0x80 ∧ State.reset.mem.read 0x04F = 0x80 ∧ State.reset.mem.read 0x050 = 0x00 := by decide

/-- V153. -/
theorem test_load : (portLoad [0x00, 0xE0] State.reset).1 = .loaded ∧
    (portLoad [0x00, 0xE0] State.reset).2.mem.read 0x200 = 0x00 ∧
    (portLoad [0x00, 0xE0] State.reset).2.mem.read 0x201 = 0xE0 ∧
    (portLoad [0x00, 0xE0] State.reset).2.mem.read 0x202 = 0x00 := by decide

/-- Rule R366. -/
theorem test_key_press : (portKeyPress 0xA State.reset).key = 0x0400 ∧
    (portKeyRelease 0xA (portKeyPress 0xA State.reset)).key = 0 := by decide

/-- Rule R307: reset is the way out of a fault, a step is not. -/
theorem test_reset_clears_fault :
    (portReset { State.reset with fault := some ⟨.stackUnderflow, 0x300, 0x300⟩ }).fault = none := by decide

/-- The model's own: an unlisted value written back leaves no entry (log entry 5). -/
theorem test_memory_canonical : Memory.write (Memory.write [] 0x300 7) 0x300 0 = [] := by decide

/-! ### Witnesses: states and operands that meet every hypothesis of a statement, one for each clause -/

theorem witness_DecodeOfEncode : (Instr.sys 0x0E1).wellFormed = true := by decide

theorem witness_EncodeOfDecode : decode 0x8FFE = .ok (.shl 0xF 0xF) := by decide

theorem witness_RejectedWordsAreExactly : isDecodeFailure 0x8FFF ∧ opField 0x8FFF ≠ 0 := by
  unfold isDecodeFailure; decide

theorem witness_StepRunsDecodedInstruction :
    ∃ s : State, s.fault = none ∧ s.pc.toNat + 1 < 0x1000 ∧
      decode (s.mem.read s.pc.toNat ++ s.mem.read (s.pc.toNat + 1)) = .ok (.ldImm 0 1) :=
  ⟨(State.reset.setPc 0x0FFE).withFetchWord 16 0x6001, by decide⟩

theorem witness_FetchRangeAndByteOrder_out : 0x1000 ≤ (State.reset.setPc 0x0FFF).pc.toNat + 1 ∧
    (State.reset.setPc 0x0FFF).fault = none := by decide

theorem witness_FetchRangeAndByteOrder_in : (State.reset.setPc 0x0FFE).pc.toNat + 1 < 0x1000 := by decide

theorem witness_DecodeFailureIsNoOpWithRecord :
    State.reset.fault = none ∧ fetchWord State.reset = .ok 0x0000 ∧ isDecodeFailure 0x0000 :=
  ⟨rfl, rfl, by unfold isDecodeFailure; decide⟩

theorem witness_RecordExactlyOnDecodeFailure_recorded :
    State.reset.fault = none ∧ fetchWord State.reset = .ok 0x0000 ∧ (∃ t, step State.reset = .next t) ∧
      isDecodeFailure 0x0000 :=
  ⟨rfl, rfl, ⟨_, rfl⟩, by unfold isDecodeFailure; decide⟩

theorem witness_RecordExactlyOnDecodeFailure_not_recorded :
    ∃ s t, s.fault = none ∧ fetchWord s = .ok 0x00E0 ∧ step s = .next t ∧ ¬ isDecodeFailure 0x00E0 :=
  ⟨State.reset.withFetchWord 16 0x00E0, _, rfl, rfl, rfl, by unfold isDecodeFailure; decide⟩

theorem witness_FaultEntryIsPrecise_raises :
    (∃ t, exec .ret State.reset = .next t) ∧ ruleFault .ret State.reset = some ⟨.stackUnderflow, 0x200⟩ :=
  ⟨⟨_, rfl⟩, by decide⟩

theorem witness_FaultEntryIsPrecise_none :
    (∃ t, exec (.addReg 1 2) State.reset = .next t) ∧ ruleFault (.addReg 1 2) State.reset = none := ⟨⟨_, rfl⟩, rfl⟩

theorem witness_StepFaultsByTheTable_fetch :
    ∃ t, (State.reset.setPc 0x0FFF).fault = none ∧ step (State.reset.setPc 0x0FFF) = .next t ∧
      t.fault = some ⟨.fetchRange, 0x0FFF, 0x0FFF⟩ := ⟨_, rfl, rfl, rfl⟩

theorem witness_StepFaultsByTheTable_instruction :
    ∃ s t, s.fault = none ∧ step s = .next t ∧ fetchWord s = .ok 0x00EE ∧ decode 0x00EE = .ok .ret ∧
      ruleFault .ret s = some ⟨.stackUnderflow, 0x200⟩ ∧ t.fault = some ⟨.stackUnderflow, 0x200, 0x200⟩ :=
  ⟨State.reset.withFetchWord 16 0x00EE, _, rfl, rfl, rfl, rfl, rfl, rfl⟩

theorem witness_FaultedBlockIsHalted :
    ∃ s t u, s.fault ≠ none ∧ portStep .reset s = .next t ∧ portStep .tick s = .next u ∧ PortEvent.tick ≠ .reset :=
  ⟨State.reset.takeFault ⟨.stackUnderflow, 0x200⟩, _, _, by decide, rfl, rfl, by decide⟩

theorem witness_PcAfterEveryInstruction_exec :
    ∃ t, exec (.seImm 0 0) State.reset = .next t ∧ (ruleFault (.seImm 0 0) State.reset).isSome = false := ⟨_, rfl, rfl⟩

theorem witness_PcAfterEveryInstruction_faults :
    ∃ t, exec .ret State.reset = .next t ∧ (ruleFault .ret State.reset).isSome = true := ⟨_, rfl, rfl⟩

theorem witness_PcAfterEveryInstruction_failure :
    ∃ t, State.reset.fault = none ∧ fetchWord State.reset = .ok 0 ∧ isDecodeFailure 0 ∧ step State.reset = .next t :=
  ⟨_, rfl, rfl, by unfold isDecodeFailure; decide, rfl⟩

theorem witness_PcAfterEveryInstruction_fetch :
    ∃ s t, s.fault = none ∧ 0x1000 ≤ s.pc.toNat + 1 ∧ step s = .next t :=
  ⟨State.reset.setPc 0x0FFF, _, rfl, by decide, rfl⟩

/-- A state with a CALL at pc, which is not the reset state. -/
def callAtPc : State := State.reset.withFetchWord 16 0x2300

theorem callAtPc_inv : callAtPc.Inv := by
  refine ⟨by decide, fun a ha => ?_⟩
  have h0 : a ≠ 0x200 := by simp only [Config.progBase] at ha; omega
  show Memory.read [(0x200, 0x23)] a = _
  simp [Memory.read, h0]

theorem witness_StepKeepsInvariant : callAtPc.Inv ∧ ∃ t, step callAtPc = .next t := ⟨callAtPc_inv, _, rfl⟩

theorem witness_SessionKeepsInvariant :
    callAtPc.Inv ∧ ∃ t, runPorts [.step, .tick, .load [0x12, 0x00], .reset] callAtPc = .next t :=
  ⟨callAtPc_inv, _, rfl⟩

theorem witness_RegisterReadWriteMatrix_write :
    (∃ t, exec (.addReg 1 2) State.reset = .next t) ∧ ¬ writesReg (.addReg 1 2) 0xE := ⟨⟨_, rfl⟩, by simp [writesReg, flagReg]⟩

theorem witness_RegisterReadWriteMatrix_read :
    ¬ readsReg (.shr 1 2) 2 ∧ (∃ t, exec (.shr 1 2) State.reset = .next t) ∧
      ∃ t, exec (.shr 1 2) (State.reset.setV 2 0xFF) = .next t := ⟨by simp [readsReg], ⟨_, rfl⟩, ⟨_, rfl⟩⟩

theorem witness_StateChangesOnlyByNamedInstructions : ∃ t, exec .cls State.reset = .next t := ⟨_, rfl⟩

theorem witness_CanonicalMemoriesAreEqual :
    Memory.wf [(0x200, 1)] ∧ Memory.wf (Memory.write [] 0x200 1) ∧
      ∀ a, Memory.read [(0x200, 1)] a = (Memory.write [] 0x200 1).read a := ⟨by decide, by decide, fun _ => rfl⟩

theorem witness_RetPopsReturnAddress_full : 0 < ({ State.reset with sp := 16 } : State).sp.val := by decide
theorem witness_RetPopsReturnAddress_one : 0 < ({ State.reset with sp := 1 } : State).sp.val := by decide
theorem witness_RetPopsReturnAddress_empty : State.reset.sp = 0 := rfl

theorem witness_CallPushesAndJumps_last : ({ State.reset with sp := 15 } : State).sp.val < 16 := by decide
theorem witness_CallPushesAndJumps_full : ({ State.reset with sp := 16 } : State).sp = 16 := rfl

theorem witness_NestedCallsReturn :
    List.replicate 16 (0x300 : Addr12) ≠ [] ∧ State.reset.sp.val + (List.replicate 16 (0x300 : Addr12)).length ≤ 16 := by
  decide

theorem witness_FontGlyphAtI : callAtPc.Inv ∧ ((callAtPc.setV 0 15).getV 0).toNat ≤ 15 ∧ (callAtPc.setV 0 15).Inv :=
  ⟨callAtPc_inv, by decide, callAtPc_inv⟩

theorem witness_DecimalSplit_lowest : 0x200 ≤ (start [] 0x0200).i.toNat ∧ (start [] 0x0200).i.toNat + 2 < 0x1000 := by decide
theorem witness_DecimalSplit_highest : 0x200 ≤ (start [] 0x0FFD).i.toNat ∧ (start [] 0x0FFD).i.toNat + 2 < 0x1000 := by decide
theorem witness_DecimalSplit_reserved : (start [] 0x01FF).i.toNat < 0x200 := by decide
theorem witness_DecimalSplit_range : 0x1000 ≤ (start [] 0x0FFE).i.toNat + 2 := by decide

theorem witness_BlockRegisterStore_highest : 0x200 ≤ (start [] 0x0FF0).i.toNat ∧
    (start [] 0x0FF0).i.toNat + (0xF : RegIndex).toNat < 0x1000 ∧ (0xF : RegIndex) ≤ 0xF := by decide
theorem witness_BlockRegisterStore_reserved : (start [] 0x01FF).i.toNat < 0x200 := by decide
theorem witness_BlockRegisterStore_range : 0x1000 ≤ (start [] 0x0FF1).i.toNat + (0xF : RegIndex).toNat := by decide

theorem witness_BlockRegisterLoad_highest : (start [] 0x0FF0).i.toNat + (0xF : RegIndex).toNat < 0x1000 := by decide
theorem witness_BlockRegisterLoad_range : 0x1000 ≤ (start [] 0x1000).i.toNat + (0x0 : RegIndex).toNat := by decide

theorem witness_StoreIsSeenByNextFetch_both_bytes : 0x200 ≤ (start [] 0x0202).i.toNat ∧
    ((start [] 0x0202).pc + 2).toNat + 1 < 0x1000 ∧ (start [] 0x0202).i.toNat + (0x1 : RegIndex).toNat < 0x1000 ∧
    (start [] 0x0202).i.toNat = ((start [] 0x0202).pc + 2).toNat := by decide

/-- LD [I],V0 over the second byte alone. -/
theorem witness_StoreIsSeenByNextFetch_one_byte : 0x200 ≤ (start [] 0x0203).i.toNat ∧
    ((start [] 0x0203).pc + 2).toNat + 1 < 0x1000 ∧ (start [] 0x0203).i.toNat + (0x0 : RegIndex).toNat < 0x1000 ∧
    (start [] 0x0203).i.toNat = ((start [] 0x0203).pc + 2).toNat + 1 := by decide

/-- LD B,V0 whose last digit falls on the first byte, at the highest I and the highest next instruction. -/
theorem witness_StoreIsSeenByNextFetch_decimal : ∃ s : State, 0x200 ≤ s.i.toNat ∧ (s.pc + 2).toNat + 1 < 0x1000 ∧
    s.i.toNat + 2 < 0x1000 ∧ (s.pc + 2).toNat = s.i.toNat + 1 := ⟨(start [] 0x0FFD).setPc 0x0FFC, by decide⟩

theorem witness_DrawSprite_no_rows : ((0 : BitVec 4) = 0 ∨ (start [] 0xFFFF).i.toNat + (0 : BitVec 4).toNat ≤ 0x1000) := by
  decide
theorem witness_DrawSprite_last_byte : ((1 : BitVec 4) = 0 ∨ (start [] 0x0FFF).i.toNat + (1 : BitVec 4).toNat ≤ 0x1000) := by
  decide
theorem witness_DrawSprite_range : (2 : BitVec 4) ≠ 0 ∧ 0x1000 < (start [] 0x0FFF).i.toNat + (2 : BitVec 4).toNat := by decide

/-- A cell under a 1 bit that is set, so that the draw collides, and one that is not under any. -/
theorem witness_DrawSprite_cells :
    drawnAt (start [] 0x0000) 0 1 1 0 ∧ ¬ drawnAt (start [] 0x0000) 0 1 1 64 ∧
      fbCell ({ start [] 0x0000 with fb := State.reset.fb.set 0 0x1 } : State).fb 0 = true ∧
      drawnAt { start [] 0x0000 with fb := State.reset.fb.set 0 0x1 } 0 1 1 0 := by
  refine ⟨⟨0, 0, by decide⟩, ?_, by decide, ⟨0, 0, by decide⟩⟩
  rintro ⟨row, col, hr, hc, -, h⟩
  have h1 : ((start [] 0x0000).getV 0).toNat = 0 := by decide
  have h2 : ((start [] 0x0000).getV 1).toNat = 0 := by decide
  have h3 : (1 : BitVec 4).toNat = 1 := rfl
  rw [h1, h2] at h
  omega

/-- A sprite row of zeros draws no cell, so no cell it draws is set. -/
theorem witness_DrawSprite_no_collision : ∀ k, drawnAt (start [] 0x0050) 0 1 1 k → fbCell (start [] 0x0050).fb k = false :=
  fun k _ => fbCell_clear k

theorem witness_SpriteCellsAreDistinct : (List.replicate 15 (0xFF : Byte)).length ≤ 15 ∧
    1 ∈ spriteCells 0 0 (List.replicate 15 0xFF) := by decide

theorem witness_DrawTwiceRestores :
    ∃ t u, ((1 : BitVec 4) = 0 ∨ (start [] 0x0300).i.toNat + (1 : BitVec 4).toNat ≤ 0x1000) ∧
      exec (.drw 0 1 1) (start [] 0x0300) = .next t ∧ t.getV 0 = (start [] 0x0300).getV 0 ∧
      t.getV 1 = (start [] 0x0300).getV 1 ∧ exec (.drw 0 1 1) t = .next u := ⟨_, _, by decide, rfl, rfl, rfl, rfl⟩

theorem witness_KeySkips_in : ((start [(4, 15)] 0).getV 4).toNat ≤ 15 := by decide
theorem witness_KeySkips_out : 15 < ((start [(4, 16)] 0).getV 4).toNat := by decide

theorem witness_WaitForKey_none : State.reset.key = 0 := rfl
theorem witness_WaitForKey_some : (portKeyPress 0xF State.reset).key ≠ 0 := by decide

theorem witness_ProgramLoad_accepted : (List.replicate 3584 (0 : Byte)).length ≤ 3584 ∧
    3583 < (List.replicate 3584 (0 : Byte)).length := by rw [List.length_replicate]; decide
theorem witness_ProgramLoad_refused : 3584 < (List.replicate 3585 (0 : Byte)).length := by
  rw [List.length_replicate]; decide

theorem witness_DirtyIsClearedOnlyByTheHost :
    ∃ s t, step s = .next t ∧ portDirty s = true := ⟨{ State.reset with dirty := true }, _, rfl, rfl⟩

/-- A second load after a reset is admitted. -/
theorem witness_AdmittedSessionsLoadOnce_admitted :
    admittedFrom true [.load [1], .step, .reset, .tick, .load [2], .step] = true := by decide

/-- Two accepted loads before one reset, and a load after a step, are not. -/
theorem witness_AdmittedSessionsLoadOnce_refused :
    admittedFrom true [.load [1], .load [2], .reset] = false ∧ admittedFrom true [.reset, .step, .load [1]] = false := by
  decide

/-- The split of a session at the second of its three loads. -/
theorem witness_AdmittedSessionsLoadOnce_split :
    ([.load [1], .reset, .tick, .load [2], .step, .reset, .load [3]] : List PortEvent) =
      [.load [1], .reset] ++ [.tick] ++ .load [2] :: ([.step] ++ [.reset, .load [3]]) ∧
    [PortEvent.load [1], .reset].getLast? = some .reset ∧ PortEvent.reset ∉ [PortEvent.tick] ∧
    PortEvent.reset ∉ [PortEvent.step] ∧ [PortEvent.reset, .load [3]].head? = some .reset ∧
    [(2 : Byte)].length ≤ 3584 := by decide

theorem witness_EndsAreFixedPoints_self_loop : (State.reset.withFetchWord 16 0x1200).atSelfLoop := ⟨rfl, 0x200, by decide⟩

theorem witness_EndsAreFixedPoints_fault : (State.reset.takeFault ⟨.stackUnderflow, 0x200⟩).faulted := by
  simp [State.faulted]

theorem witness_EndsAreFixedPoints_key_wait : (State.reset.withFetchWord 16 0xF30A).atKeyWait :=
  ⟨rfl, ⟨3, by decide⟩, rfl⟩

theorem witness_PlacedWordRunsNext : decodeTableWord 16 0x00E0 = some .cls := by decide

end Sys2Proof.Tests.Slice0
end

section
/-! SUPPORT. What each instruction leaves unchanged (spec/10_state.md sections 1 to 9): `unchangedBut` field by field, and
the frame of `exec` in its two outcomes, a fault taken or the instruction's effect. -/

namespace Sys2Proof.Machine

/-! ### `unchangedBut`, one piece of state at a time -/

/-- With a list of pieces written out, simp turns this into the equations of the unlisted pieces, which the field lemmas
of Laws/State.lean close. -/
theorem unchangedBut_iff {parts : List Part} {s t : State} : unchangedBut parts s t ↔
    (.pc ∉ parts → t.pc = s.pc) ∧ (.v ∉ parts → ∀ r, t.getV r = s.getV r) ∧ (.i ∉ parts → t.i = s.i) ∧
    (.sp ∉ parts → t.sp = s.sp) ∧ (.stack ∉ parts → t.stack = s.stack) ∧ (.dt ∉ parts → t.dt = s.dt) ∧
    (.st ∉ parts → t.st = s.st) ∧ (.fb ∉ parts → t.fb = s.fb) ∧ (.dirty ∉ parts → t.dirty = s.dirty) ∧
    (.key ∉ parts → t.key = s.key) ∧ (.fault ∉ parts → t.fault = s.fault) ∧ (.diag ∉ parts → t.diag = s.diag) ∧
    (.mem ∉ parts → ∀ a, t.mem.read a = s.mem.read a) ∧ (.randDraws ∉ parts → t.randDraws = s.randDraws) ∧
    (.keyPicks ∉ parts → t.keyPicks = s.keyPicks) := by
  constructor
  · exact fun h => ⟨h .pc, h .v, h .i, h .sp, h .stack, h .dt, h .st, h .fb, h .dirty, h .key, h .fault, h .diag, h .mem,
      h .randDraws, h .keyPicks⟩
  · rintro ⟨_, _, _, _, _, _, _, _, _, _, _, _, _, _, _⟩ p
    cases p <;> assumption

theorem unchangedBut.mono {parts parts' : List Part} {s t : State} (h : unchangedBut parts s t)
    (hsub : parts ⊆ parts') : unchangedBut parts' s t :=
  fun p hp => h p fun hq => hp (hsub hq)

/-- Taking a fault changes FAULT alone (rule R306). -/
theorem unchangedBut_takeFault (s : State) (r : Raised) : unchangedBut [.fault] s (s.takeFault r) := by
  simp [unchangedBut_iff]

/-- A skip changes pc alone (rule R131). -/
theorem unchangedBut_advance_skipIf (s : State) (c : Bool) : unchangedBut [.pc] s (s.advance.skipIf c) := by
  simp [unchangedBut_iff, State.skipIf_eq]

theorem unchangedBut_setPc (s : State) (w : Word) : unchangedBut [.pc] s (s.setPc w) := by
  simp [unchangedBut_iff]

theorem unchangedBut_advance_setI (s : State) (w : Word) : unchangedBut [.pc, .i] s (s.advance.setI w) := by
  simp [unchangedBut_iff]

theorem unchangedBut_advance_setV (s : State) (x : RegIndex) (b : Byte) : unchangedBut [.pc, .v] s (s.advance.setV x b) := by
  simp [unchangedBut_iff]

/-- VF is one of the registers, so a flag adds no piece of state (rule R38). -/
theorem unchangedBut_advance_setResultFlag (s : State) (x : RegIndex) (b : Byte) (f : Bool) :
    unchangedBut [.pc, .v] s (s.advance.setResultFlag x b f) := by
  simp [unchangedBut_iff]

theorem unchangedBut_advance_setMem (s : State) (m : Memory) : unchangedBut [.pc, .mem] s (s.advance.setMem m) := by
  simp [unchangedBut_iff]

/-- A decode failure changes pc and DIAG (rule R109). -/
theorem unchangedBut_decodeFailure (w : Word) (s : State) : unchangedBut [.pc, .diag] s (decodeFailure w s) := by
  simp [unchangedBut_iff, decodeFailure]

/-! ### The frame of every instruction -/

/-- An instruction takes a fault in the state before it, or answers a state in which only pc and the pieces the spec names
for it may differ. -/
theorem exec_frame (i : Instr) (s : State) :
    (∃ r, exec i s = .next (s.takeFault r)) ∨
    ∃ t, exec i s = .next t ∧ unchangedBut (.pc :: partsWritten i) s t := by
  cases i with
  | cls => exact .inr ⟨_, exec_cls s, by simp [unchangedBut_iff, partsWritten]⟩
  | sys nnn => exact .inr ⟨_, exec_sys s nnn, unchangedBut_decodeFailure _ s⟩
  | jp nnn => exact .inr ⟨_, exec_jp s nnn, unchangedBut_setPc s _⟩
  | jpV0 nnn => exact .inr ⟨_, exec_jpV0 s nnn, unchangedBut_setPc s _⟩
  | seImm x kk => exact .inr ⟨_, exec_seImm s x kk, unchangedBut_advance_skipIf s _⟩
  | sneImm x kk => exact .inr ⟨_, exec_sneImm s x kk, unchangedBut_advance_skipIf s _⟩
  | seReg x y => exact .inr ⟨_, exec_seReg s x y, unchangedBut_advance_skipIf s _⟩
  | sneReg x y => exact .inr ⟨_, exec_sneReg s x y, unchangedBut_advance_skipIf s _⟩
  | ldImm x kk => exact .inr ⟨_, exec_ldImm s x kk, unchangedBut_advance_setV s x _⟩
  | addImm x kk => exact .inr ⟨_, exec_addImm s x kk, unchangedBut_advance_setV s x _⟩
  | ldReg x y => exact .inr ⟨_, exec_ldReg s x y, unchangedBut_advance_setV s x _⟩
  | orReg x y => exact .inr ⟨_, exec_orReg s x y, unchangedBut_advance_setV s x _⟩
  | andReg x y => exact .inr ⟨_, exec_andReg s x y, unchangedBut_advance_setV s x _⟩
  | xorReg x y => exact .inr ⟨_, exec_xorReg s x y, unchangedBut_advance_setV s x _⟩
  | addReg x y => exact .inr ⟨_, exec_addReg s x y, unchangedBut_advance_setResultFlag s x _ _⟩
  | subReg x y => exact .inr ⟨_, exec_subReg s x y, unchangedBut_advance_setResultFlag s x _ _⟩
  | subnReg x y => exact .inr ⟨_, exec_subnReg s x y, unchangedBut_advance_setResultFlag s x _ _⟩
  | shr x y => exact .inr ⟨_, exec_shr s x y, unchangedBut_advance_setResultFlag s x _ _⟩
  | shl x y => exact .inr ⟨_, exec_shl s x y, unchangedBut_advance_setResultFlag s x _ _⟩
  | rnd x kk => exact .inr ⟨_, exec_rnd s x kk, by simp [unchangedBut_iff, partsWritten]⟩
  | ldI nnn => exact .inr ⟨_, exec_ldI s nnn, unchangedBut_advance_setI s _⟩
  | addI x => exact .inr ⟨_, exec_addI s x, by simp [unchangedBut_iff, partsWritten]⟩
  | ldF x => exact .inr ⟨_, exec_ldF s x, unchangedBut_advance_setI s _⟩
  | ldVxDT x => exact .inr ⟨_, exec_ldVxDT s x, unchangedBut_advance_setV s x _⟩
  | ldDTVx x => exact .inr ⟨_, exec_ldDTVx s x, by simp [unchangedBut_iff, partsWritten]⟩
  | ldSTVx x => exact .inr ⟨_, exec_ldSTVx s x, by simp [unchangedBut_iff, partsWritten]⟩
  | ret =>
    by_cases h : 0 < s.sp.val
    · exact .inr ⟨_, exec_ret_ok s h, by simp [unchangedBut_iff, partsWritten, State.getV]⟩
    · exact .inl ⟨_, exec_ret_empty s h⟩
  | call nnn =>
    by_cases h : s.sp.val < 16
    · exact .inr ⟨_, exec_call_ok s nnn h, by simp [unchangedBut_iff, partsWritten, State.getV]⟩
    · exact .inl ⟨_, exec_call_full s nnn h⟩
  | skp x =>
    rcases Nat.lt_or_ge 15 (s.getV x).toNat with h | h
    · exact .inl ⟨_, exec_skp_error s x h⟩
    · exact .inr ⟨_, exec_skp_ok s x h, unchangedBut_advance_skipIf s _⟩
  | sknp x =>
    rcases Nat.lt_or_ge 15 (s.getV x).toNat with h | h
    · exact .inl ⟨_, exec_sknp_error s x h⟩
    · exact .inr ⟨_, exec_sknp_ok s x h, unchangedBut_advance_skipIf s _⟩
  | ldVxK x =>
    cases h : chooseKey (Config.keyChoice s.keyPicks) s.pressedKeys with
    | none => exact .inr ⟨s, exec_ldVxK_wait s x (chooseKey_none.mp h), by simp [unchangedBut_iff]⟩
    | some k => exact .inr ⟨_, exec_ldVxK_bind s x h, by simp [unchangedBut_iff, partsWritten]⟩
  | ldB x =>
    cases h : writeBytes s.mem s.base (decimalDigits (s.getV x)) with
    | error r => exact .inl ⟨r, exec_ldB_error s x h⟩
    | ok m => exact .inr ⟨_, exec_ldB_ok s x h, unchangedBut_advance_setMem s m⟩
  | storeRegs x =>
    cases h : writeBytes s.mem s.base (s.lowRegs x) with
    | error r => exact .inl ⟨r, exec_storeRegs_error s x h⟩
    | ok m => exact .inr ⟨_, exec_storeRegs_ok s x h, unchangedBut_advance_setMem s m⟩
  | loadRegs x =>
    cases h : readBytes s.mem s.base (x.toNat + 1) with
    | error r => exact .inl ⟨r, exec_loadRegs_error s x h⟩
    | ok bs => exact .inr ⟨_, exec_loadRegs_ok s x h, by simp [unchangedBut_iff, partsWritten]⟩
  | drw x y n =>
    cases h : readBytes s.mem s.base n.toNat with
    | error r => exact .inl ⟨r, exec_drw_error s x y n h⟩
    | ok rows => exact .inr ⟨_, exec_drw_ok s x y n h, by simp [unchangedBut_iff, partsWritten]⟩

/-- Settles O20: the fault arm changes FAULT alone, the other arm pc and the instruction's own pieces. -/
theorem stateChangesOnlyByNamedInstructions : Obligations.StateChangesOnlyByNamedInstructions := by
  intro i s t h
  rcases exec_frame i s with ⟨r, hr⟩ | ⟨u, hu, hframe⟩
  · obtain rfl : s.takeFault r = t := by simpa [hr] using h
    exact (unchangedBut_takeFault s r).mono (by simp)
  · obtain rfl : u = t := by simpa [hu] using h
    exact hframe.mono (by simp)

end Sys2Proof.Machine
end

section
/-! SUPPORT. The fetch of rule R102 in its two ranges: FetchRange past the end of memory, else the big-endian word of rule
R61. -/

namespace Sys2Proof.Machine

theorem fetchWord_of_out_of_range {s : State} (h : 0x1000 ≤ s.pc.toNat + 1) :
    fetchWord s = .error ⟨.fetchRange, s.pc.toNat⟩ := by
  rw [fetchWord_eq, if_pos h]

theorem fetchWord_of_in_range {s : State} (h : s.pc.toNat + 1 < 0x1000) :
    fetchWord s = .ok (s.mem.read s.pc.toNat ++ s.mem.read (s.pc.toNat + 1)) := by
  rw [fetchWord_eq, if_neg (Nat.not_le.mpr h)]

/-- Settles O6: past the end of memory the step takes the fetch's own fault; inside it the appended bytes are the
big-endian word, whatever the parity of pc. -/
theorem fetchRangeAndByteOrder : Obligations.FetchRangeAndByteOrder := by
  intro s
  constructor
  · intro hout hfault
    exact step_fetchFault hfault (fetchWord_of_out_of_range hout)
  · intro hin
    exact ⟨_, fetchWord_of_in_range hin, toNat_append_eq _ _⟩

end Sys2Proof.Machine
end

section
/-! SUPPORT. The dispatch of rule R85 on a word built from fields: a grouped selector hands its fields to its sub-selector,
and the fields of the other selectors are the operands. -/

namespace Sys2Proof

/-! ### The grouped selectors 0, 8, E and F -/

section
variable (x y n : BitVec 4) (kk : Byte) (nnn : Addr12)

theorem decode_selector0 : decode (wordNnn 0x0 nnn) = .ok (decode0 nnn) := by simp [decode]

theorem decode_selector8 : decode (wordXyn 0x8 x y n) = decode8 x y n := by simp [decode]

theorem decode_selectorE : decode (wordXkk 0xE x kk) = decodeE x kk := by simp [decode]

theorem decode_selectorF : decode (wordXkk 0xF x kk) = decodeF x kk := by simp [decode]

end

/-- A SYS field is neither that of CLS nor that of RET, so selector 0 falls through to SYS (rule R84 row 3). -/
theorem decode0_of_sysField {nnn : Addr12} (h : sysField nnn = true) : decode0 nnn = .sys nnn := by
  obtain ⟨hcls, hret⟩ : nnn ≠ 0x0E0 ∧ nnn ≠ 0x0EE := by simpa [sysField] using h
  rw [decode0, if_neg hcls, if_neg hret]

/-! ### The round trip -/

/-- Settles O1, selector by selector: CLS and RET are fixed words, SYS is where well-formedness is used, a grouped
selector's constant picks its own row, and the remaining selectors name one row each. -/
theorem decodeOfEncode : Obligations.DecodeOfEncode := by
  intro i hwf
  cases i with
  | cls | ret => rfl
  | sys nnn => exact (decode_selector0 nnn).trans (congrArg _ (decode0_of_sysField hwf))
  | ldReg x y | orReg x y | andReg x y | xorReg x y | addReg x y | subReg x y | shr x y | subnReg x y | shl x y =>
    exact decode_selector8 x y _
  | skp x | sknp x => exact decode_selectorE x _
  | ldVxDT x | ldVxK x | ldDTVx x | ldSTVx x | addI x | ldF x | ldB x | storeRegs x | loadRegs x =>
    exact decode_selectorF x _
  | jp | call | ldI | jpV0 => simp [encode, decode]
  | seImm | sneImm | ldImm | addImm | rnd => simp [encode, decode]
  | seReg | sneReg | drw => simp [encode, decode]

end Sys2Proof
end

section
/-! SUPPORT. The words of rule R87's list in the decoder and in the step: a sub-selector no row names is rejected, a word of
selector 0 on the list is a SYS word, and the step of either is the decode failure of rule R109. -/

namespace Sys2Proof

/-! ### The sub-selectors no row names -/

theorem decode8_error (x y : RegIndex) {n : BitVec 4} (h : n ∈ [0x8#4, 0x9#4, 0xA#4, 0xB#4, 0xC#4, 0xD#4, 0xF#4]) :
    decode8 x y n = .error (.selector8 n) := by
  unfold decode8
  split
  case h_10 => rfl
  all_goals exact absurd h (by decide)

theorem decodeE_error (x : RegIndex) {kk : Byte} (h : kk ∉ [0x9E#8, 0xA1#8]) :
    decodeE x kk = .error (.selectorE kk) := by
  unfold decodeE
  split
  case h_3 => rfl
  all_goals exact absurd h (by decide)

theorem decodeF_error (x : RegIndex) {kk : Byte}
    (h : kk ∉ [0x07#8, 0x0A#8, 0x15#8, 0x18#8, 0x1E#8, 0x29#8, 0x33#8, 0x55#8, 0x65#8]) :
    decodeF x kk = .error (.selectorF kk) := by
  unfold decodeF
  split
  case h_10 => rfl
  all_goals exact absurd h (by decide)

end Sys2Proof

namespace Sys2Proof.Machine

/-! ### The words of rule R87's list -/

/-- The word of SYS is its address field (rule R84 row 3), the word its decode failure records. -/
theorem wordNnn_zero (nnn : Addr12) : wordNnn 0x0 nnn = zextAddr nnn := by
  apply BitVec.eq_of_toNat_eq
  rw [wordNnn_toNat, zextAddr, BitVec.toNat_setWidth_of_le (by decide)]
  simp

/-- Selector 0 has no word to reject: on the list it holds the SYS words (decision D4). -/
theorem decode_of_isDecodeFailure {w : Word} (h : isDecodeFailure w) :
    (∃ e, decode w = .error e) ∨ ∃ nnn, decode w = .ok (.sys nnn) ∧ zextAddr nnn = w := by
  rcases h with ⟨hop, hcls, hret⟩ | ⟨hop | hop, hn⟩ | ⟨hop, hn⟩ | ⟨hop, hkk⟩ | ⟨hop, hkk⟩
  · have hw : wordNnn 0x0 (nnnField w) = w := hop ▸ wordNnn_of_fields w
    have hsys : sysField (nnnField w) = true := by simpa [sysField] using And.intro hcls hret
    refine .inr ⟨nnnField w, ?_, (wordNnn_zero _).symm.trans hw⟩
    rw [← decode0_of_sysField hsys, ← decode_selector0, hw]
  · exact .inl ⟨.selector5 (nField w), by rw [decode, hop]; exact if_neg hn⟩
  · exact .inl ⟨.selector9 (nField w), by rw [decode, hop]; exact if_neg hn⟩
  · exact .inl ⟨_, by rw [decode, hop]; exact decode8_error _ _ hn⟩
  · exact .inl ⟨_, by rw [decode, hop]; exact decodeE_error _ hkk⟩
  · exact .inl ⟨_, by rw [decode, hop]; exact decodeF_error _ hkk⟩

/-- Rules R108 and R109: a rejected word and a SYS word step alike. -/
theorem step_of_isDecodeFailure {s : State} {w : Word} (hf : s.fault = none) (hw : fetchWord s = .ok w)
    (h : isDecodeFailure w) : step s = .next (decodeFailure w s) := by
  rcases decode_of_isDecodeFailure h with ⟨e, he⟩ | ⟨nnn, hsys, rfl⟩
  · exact step_decodeFailure hf hw he
  · rw [step_exec hf hw hsys, exec_sys]

/-- Settles O7: the step is `decodeFailure`, which advances pc, appends the record and keeps every other piece of state. -/
theorem decodeFailureIsNoOpWithRecord : Obligations.DecodeFailureIsNoOpWithRecord := by
  intro s w hf hw h
  exact ⟨decodeFailure w s, step_of_isDecodeFailure hf hw h, rfl, rfl, unchangedBut_decodeFailure w s⟩

end Sys2Proof.Machine
end

section
/-! SUPPORT. Control flow (spec/41_control_flow.md): where JP and a skip leave pc, and the call stack in its two cases, room
for the operation or the fault of decision D7. -/

namespace Sys2Proof.Machine

/-! ### JP and the compare skips (rules R122 and R127 to R131) -/

theorem zextAddr_toNat (nnn : Addr12) : (zextAddr nnn).toNat = nnn.toNat :=
  BitVec.toNat_setWidth_of_le (by decide)

/-- The default advance and the skip's own add up to 4 (rule R131). -/
theorem advance_skipIf_pc (s : State) (c : Bool) :
    (s.advance.skipIf c).pc = if c = true then s.pc + 4 else s.pc + 2 := by
  cases c with
  | false => rfl
  | true => exact BitVec.add_assoc s.pc 2 2

/-- Everything a skip does, with the machine's test `c` read as the rule's condition `p` (rules R25 and R131). -/
theorem exec_skip_spec {i : Instr} {s : State} {c : Bool} {p : Prop} [Decidable p]
    (hexec : exec i s = .next (s.advance.skipIf c)) (hc : c = true ↔ p) :
    ∃ t, exec i s = .next t ∧ t.pc = (if p then s.pc + 4 else s.pc + 2) ∧ unchangedBut [.pc] s t :=
  ⟨_, hexec, (advance_skipIf_pc s c).trans (by simp only [hc]), unchangedBut_advance_skipIf s c⟩

/-- Settles O25: the 12-bit target is zero-extended, so no bit of it is lost. -/
theorem jumpSetsPc : Obligations.JumpSetsPc := by
  intro nnn s
  exact ⟨_, exec_jp s nnn, zextAddr_toNat nnn, unchangedBut_setPc s _⟩

/-- Settles O27: the four forms are one skip, and their tests decide the rules' equality or inequality. -/
theorem compareSkips : Obligations.CompareSkips := by
  intro x y kk s
  exact ⟨exec_skip_spec (exec_seImm s x kk) beq_iff_eq, exec_skip_spec (exec_sneImm s x kk) bne_iff_ne,
    exec_skip_spec (exec_seReg s x y) beq_iff_eq, exec_skip_spec (exec_sneReg s x y) bne_iff_ne⟩

/-! ### RET and CALL (rules R120 to R125) -/

/-- Settles O22: with an entry to pop, SP and pc alone change; with none, the pop raises and the fault is taken in the state
before the step. -/
theorem retPopsReturnAddress : Obligations.RetPopsReturnAddress := by
  intro s
  constructor
  · intro hentry
    exact ⟨_, exec_ret_ok s hentry, rfl, rfl, by simp [unchangedBut_iff, State.getV]⟩
  · intro hempty
    exact exec_ret_empty s (by simp [hempty])

/-- Settles O23: with room left, the pushed slot reads A + 2 and every other slot as before; with none, the push raises and
the fault is taken in the state before the step. -/
theorem callPushesAndJumps : Obligations.CallPushesAndJumps := by
  intro nnn s
  constructor
  · intro hroom
    refine ⟨_, exec_call_ok s nnn hroom, rfl, Vector.getElem_set_self hroom, zextAddr_toNat nnn, ?_, ?_⟩
    · intro k hk
      exact Vector.getElem_set_ne hroom k.isLt (Ne.symm hk)
    · simp [unchangedBut_iff, State.getV]
  · intro hfull
    exact exec_call_full s nnn (by simp [hfull])

end Sys2Proof.Machine
end

section
/-! SUPPORT. The register loads, the ALU and RND (spec/42_alu.md): the results and flags of section 2 as arithmetic on
unsigned values, and everything an instruction does that writes one register, with or without a flag. -/

namespace Sys2Proof.Machine

/-! ### Results and flags as unsigned arithmetic -/

section
variable (a b : Byte)

theorem byte_add_eq_ofNat_mod : a + b = BitVec.ofNat 8 ((a.toNat + b.toNat) % 256) := by
  bv_omega

/-- Rules R160 and R164; 256 is added first because a difference of naturals stops at 0. -/
theorem byte_sub_eq_ofNat_mod : a - b = BitVec.ofNat 8 ((256 + a.toNat - b.toNat) % 256) := by
  bv_omega

theorem byte_ushiftRight_one_eq_ofNat : a >>> 1 = BitVec.ofNat 8 (a.toNat / 2) := by
  bv_omega

theorem byte_shiftLeft_one_eq_ofNat : a <<< 1 = BitVec.ofNat 8 (a.toNat * 2 % 256) := by
  bv_omega

theorem flagByte_decide (p : Prop) [Decidable p] : flagByte (decide p) = if p then 1 else 0 := by
  by_cases h : p <;> simp [flagByte, h]

theorem flagByte_carryOut : flagByte (carryOut a b) = if 255 < a.toNat + b.toNat then 1 else 0 :=
  flagByte_decide _

theorem flagByte_noBorrow : flagByte (noBorrow a b) = if b.toNat ≤ a.toNat then 1 else 0 :=
  flagByte_decide _

theorem flagByte_eq_ofNat (f : Bool) : flagByte f = BitVec.ofNat 8 f.toNat := by
  cases f <;> rfl

theorem flagByte_shiftedOutRight : flagByte (shiftedOutRight a) = BitVec.ofNat 8 (a.toNat % 2) := by
  rw [flagByte_eq_ofNat, shiftedOutRight, ← BitVec.testBit_toNat, Nat.toNat_testBit]
  simp

theorem flagByte_shiftedOutLeft : flagByte (shiftedOutLeft a) = BitVec.ofNat 8 (a.toNat / 128) := by
  have hbit : a.toNat / 128 < 2 := by omega
  rw [flagByte_eq_ofNat, shiftedOutLeft, ← BitVec.testBit_toNat, Nat.toNat_testBit]
  exact congrArg _ (Nat.mod_eq_of_lt hbit)

end

/-! ### Instructions that write one register -/

section
variable {i : Instr} {s : State} {x : RegIndex} {b b' : Byte}

/-- Everything an instruction does that writes `b` to V[x] and no flag. -/
theorem exec_setV_spec (hexec : exec i s = .next (s.advance.setV x b)) (hb : b = b') :
    ∃ t, exec i s = .next t ∧ t.pc = s.pc + 2 ∧ (∀ r, t.getV r = if r = x then b' else s.getV r) ∧
      unchangedBut [.pc, .v] s t :=
  ⟨_, hexec, rfl, fun r => hb ▸ State.getV_setV s.advance x r b, unchangedBut_advance_setV s x b⟩

/-- The same with V[x] read bit by bit. -/
theorem exec_setV_bits_spec {bit : Nat → Bool} (hexec : exec i s = .next (s.advance.setV x b))
    (hbit : ∀ k, b.getLsbD k = bit k) :
    ∃ t, exec i s = .next t ∧ t.pc = s.pc + 2 ∧ (∀ r, r ≠ x → t.getV r = s.getV r) ∧
      (∀ k, (t.getV x).getLsbD k = bit k) ∧ unchangedBut [.pc, .v] s t := by
  obtain ⟨t, ht, hpc, hv, hframe⟩ := exec_setV_spec hexec rfl
  refine ⟨t, ht, hpc, fun r hr => ?_, fun k => ?_, hframe⟩
  · rw [hv, if_neg hr]
  · rw [hv, if_pos rfl, hbit]

/-- Everything an instruction does that writes `b` to V[x] and then a flag to VF, which stands when x = F (rule R152). -/
theorem exec_setResultFlag_spec {f : Bool} {f' : Byte} (hexec : exec i s = .next (s.advance.setResultFlag x b f))
    (hf : flagByte f = f') (hb : b = b') :
    ∃ t, exec i s = .next t ∧ t.pc = s.pc + 2 ∧
      (∀ r, t.getV r = if r = flagReg then f' else if r = x then b' else s.getV r) ∧ unchangedBut [.pc, .v] s t := by
  subst hf hb
  exact ⟨_, hexec, rfl, fun r => State.getV_setResultFlag s.advance x r b f, unchangedBut_advance_setResultFlag s x b f⟩

end

/-! ### The instructions of spec/42_alu.md -/

/-- Settles O28: each form is one register write, and adding bytes drops the ninth bit of the sum. -/
theorem loadsAndAddImmediate : Obligations.LoadsAndAddImmediate := by
  intro x y kk s
  exact ⟨exec_setV_spec (exec_ldImm s x kk) rfl, exec_setV_spec (exec_addImm s x kk) (BitVec.add_def _ _),
    exec_setV_spec (exec_ldReg s x y) rfl⟩

/-- Settles O29: each form is one register write, with the operation of its bits. -/
theorem logicalOperations : Obligations.LogicalOperations := by
  intro x y s
  exact ⟨exec_setV_bits_spec (exec_orReg s x y) fun _ => BitVec.getLsbD_or,
    exec_setV_bits_spec (exec_andReg s x y) fun _ => BitVec.getLsbD_and,
    exec_setV_bits_spec (exec_xorReg s x y) fun _ => BitVec.getLsbD_xor⟩

/-- Settles O30: the sum is written, then its carry. -/
theorem addWithCarry : Obligations.AddWithCarry := by
  intro x y s
  exact exec_setResultFlag_spec (exec_addReg s x y) (flagByte_carryOut _ _) (byte_add_eq_ofNat_mod _ _)

/-- Settles O31: SUB and SUBN are one operation with the operands exchanged. -/
theorem subtractWithBorrowFlag : Obligations.SubtractWithBorrowFlag := by
  intro x y s
  exact ⟨exec_setResultFlag_spec (exec_subReg s x y) (flagByte_noBorrow _ _) (byte_sub_eq_ofNat_mod _ _),
    exec_setResultFlag_spec (exec_subnReg s x y) (flagByte_noBorrow _ _) (byte_sub_eq_ofNat_mod _ _)⟩

/-- Settles O32: neither result nor flag reads V[y]. -/
theorem shiftsByOne : Obligations.ShiftsByOne := by
  intro x y s
  exact ⟨exec_setResultFlag_spec (exec_shr s x y) (flagByte_shiftedOutRight _) (byte_ushiftRight_one_eq_ofNat _),
    exec_setResultFlag_spec (exec_shl s x y) (flagByte_shiftedOutLeft _) (byte_shiftLeft_one_eq_ofNat _)⟩

/-- Settles O33: the masked draw is written to V[x], and the counter goes up. -/
theorem randomAndMask : Obligations.RandomAndMask := by
  intro x kk s
  have hv (r : RegIndex) := State.getV_setV s.advance x r (maskedDraw (Config.randByte s.randDraws) kk)
  refine ⟨_, exec_rnd s x kk, rfl, fun r hr => ?_, fun k => ?_, rfl, ?_⟩
  · exact (hv r).trans (if_neg hr)
  · rw [State.countDraw_getV, hv, if_pos rfl, maskedDraw, BitVec.getLsbD_and]
  · simp [unchangedBut_iff]

end Sys2Proof.Machine
end

section
/-! SUPPORT. LD I and the indexed memory operations (spec/43_address_memory.md): the checked read and write in each of their
ranges, everything a store of several bytes does, and the registers a load reaches. -/

namespace Sys2Proof.Machine

/-! ### The checked write and read, range by range (rules R57 to R60) -/

section
variable (m : Memory) {a : Nat}

theorem writeBytes_of_reserved {bs : List Byte} (hne : 0 < bs.length) (h : a < 0x200) :
    writeBytes m a bs = .error ⟨.reservedWrite, a⟩ := by
  rw [writeBytes, writeCheckAll_eq, if_neg hne.ne', if_pos h]

/-- In this range no address is reserved, so the fault is that of the first address outside memory. -/
theorem writeBytes_of_out_of_range {bs : List Byte} (hne : 0 < bs.length) (h0 : 0x200 ≤ a) (h1 : 0x1000 < a + bs.length) :
    writeBytes m a bs = .error ⟨.writeRange, max a 0x1000⟩ := by
  rw [writeBytes, writeCheckAll_eq, if_neg hne.ne', if_neg h0.not_gt, if_pos h1]

theorem readBytes_of_range {n : Nat} (h : a + n ≤ 0x1000) :
    readBytes m a n = .ok ((List.range n).map fun k => m.read (a + k)) := by
  rw [readBytes_eq, if_neg fun hout => hout.2.not_ge h]

theorem readBytes_of_out_of_range {n : Nat} (hne : 0 < n) (h : 0x1000 < a + n) :
    readBytes m a n = .error ⟨.readRange, max a 0x1000⟩ := by
  rw [readBytes_eq, if_pos ⟨hne.ne', h⟩]

end

/-! ### Bytes stored and bytes loaded -/

/-- Everything an instruction does that stores n + 1 bytes from I on: all of them, or the fault of the lowest bad address
(rules R60 and R305). So few bytes from a reserved address do not reach the end of memory, so the ranges exclude each
other. -/
theorem exec_writeBytes_spec {i : Instr} {s : State} {bs : List Byte} {n : Nat}
    (hok : ∀ m, writeBytes s.mem s.base bs = .ok m → exec i s = .next (s.advance.setMem m))
    (herror : ∀ r, writeBytes s.mem s.base bs = .error r → exec i s = .next (s.takeFault r))
    (hlen : bs.length = n + 1) (hn : n < 16) :
    (0x200 ≤ s.base → s.base + n < 0x1000 → ∃ t, exec i s = .next t ∧ t.pc = s.pc + 2 ∧
      (∀ k, k ≤ n → t.mem.read (s.base + k) = bs.getD k 0) ∧
      (∀ a, a < s.base ∨ s.base + n < a → t.mem.read a = s.mem.read a) ∧ unchangedBut [.pc, .mem] s t) ∧
    (s.base < 0x200 → exec i s = .next (s.takeFault ⟨.reservedWrite, s.base⟩)) ∧
    (0x1000 ≤ s.base + n → exec i s = .next (s.takeFault ⟨.writeRange, max s.base 0x1000⟩)) := by
  refine ⟨fun hlow hhigh => ?_, fun hreserved => ?_, fun hout => ?_⟩
  · have hread := Memory.read_writeList bs s.mem s.base
    refine ⟨_, hok _ (writeBytes_of_range s.mem hlow (by omega)), rfl, fun k hk => ?_, fun a ha => ?_,
      unchangedBut_advance_setMem s _⟩
    · rw [State.setMem_mem, hread, if_pos (by omega), Nat.add_sub_cancel_left]
    · rw [State.setMem_mem, hread, if_neg (by omega)]
  · exact herror _ (writeBytes_of_reserved s.mem (by omega) hreserved)
  · exact herror _ (writeBytes_of_out_of_range s.mem (by omega) (by omega) (by omega))

theorem decimalDigits_getD_toNat (b : Byte) (k : Nat) : ((decimalDigits b).getD k 0).toNat =
    if k = 0 then b.toNat / 100 else if k = 1 then b.toNat / 10 % 10 else if k = 2 then b.toNat % 10 else 0 := by
  have hb := b.isLt
  rw [decimalDigits_getD, BitVec.toNat_ofNat]
  exact Nat.mod_eq_of_lt (by split_ifs <;> omega)

/-- The first n registers take the n bytes loaded (rules R200 and R201). -/
theorem State.getV_setLowRegs_range (s : State) (f : Nat → Byte) (n : Nat) (r : RegIndex) :
    (s.setLowRegs ((List.range n).map f)).getV r = if r.toNat < n then f r.toNat else s.getV r := by
  rw [State.getV_setLowRegs]
  by_cases hr : r.toNat < n <;> simp [List.getD_eq_getElem?_getD, hr]

/-! ### The instructions of spec/43_address_memory.md -/

/-- Settles O34: the 12-bit address is zero-extended, so no bit of it is lost. -/
theorem setAddressRegister : Obligations.SetAddressRegister := by
  intro nnn s
  exact ⟨_, exec_ldI s nnn, rfl, zextAddr_toNat nnn, unchangedBut_advance_setI s _⟩

/-- Settles O37: LD B is the checked write of the three digits of V[x]. -/
theorem decimalSplit : Obligations.DecimalSplit := by
  intro x s
  obtain ⟨hstore, hreserved, hrange⟩ := exec_writeBytes_spec (fun _ => exec_ldB_ok s x) (fun _ => exec_ldB_error s x)
    (decimalDigits_length (s.getV x)) (by decide)
  refine ⟨fun hlow hhigh => ?_, hreserved, hrange⟩
  obtain ⟨t, ht, hpc, hbytes, hmem, hframe⟩ := hstore hlow hhigh
  have hdigit k (hk : k ≤ 2) := (congrArg BitVec.toNat (hbytes k hk)).trans (decimalDigits_getD_toNat (s.getV x) k)
  exact ⟨t, ht, hpc, hdigit 0 (by decide), hdigit 1 (by decide), hdigit 2 (by decide), hmem, hframe⟩

/-- Settles O38: LD [I],Vx is the checked write of the x + 1 low registers. -/
theorem blockRegisterStore : Obligations.BlockRegisterStore := by
  intro x s
  obtain ⟨hstore, hreserved, hrange⟩ := exec_writeBytes_spec (fun _ => exec_storeRegs_ok s x)
    (fun _ => exec_storeRegs_error s x) (s.lowRegs_length x) x.isLt
  refine ⟨fun hlow hhigh => ?_, hreserved, hrange⟩
  obtain ⟨t, ht, hpc, hbytes, hmem, hframe⟩ := hstore hlow hhigh
  refine ⟨t, ht, hpc, fun r hr => ?_, hmem, hframe⟩
  rw [hbytes r.toNat hr, s.lowRegs_getD x r.toNat hr, BitVec.ofNat_toNat, BitVec.setWidth_eq]

/-- Settles O39: LD Vx,[I] is the checked read of x + 1 bytes, which reach the registers up to V[x]. -/
theorem blockRegisterLoad : Obligations.BlockRegisterLoad := by
  intro x s
  constructor
  · intro hin
    refine ⟨_, exec_loadRegs_ok s x (readBytes_of_range s.mem hin), rfl, fun r => ?_, by simp [unchangedBut_iff]⟩
    rw [State.getV_setLowRegs_range]
    exact if_congr Nat.lt_succ_iff rfl rfl
  · intro hout
    exact exec_loadRegs_error s x (readBytes_of_out_of_range s.mem x.toNat.succ_pos (Nat.lt_succ_iff.mpr hout))

end Sys2Proof.Machine
end

section
/-! SUPPORT. The display (spec/44_display.md): the cells a sprite targets, no two of them equal, and what DRW makes of them in
its two ranges, the sprite in memory or the fault of decision D5. -/

namespace Sys2Proof.Machine

/-! ### The target cells of a sprite (rules R222, R226 and R231) -/

/-- Both axes can be read off a cell, each modulo its own size. -/
theorem cellIndex_eq_iff (col row col' row' : Nat) :
    cellIndex col row = cellIndex col' row' ↔ col % 64 = col' % 64 ∧ row % 32 = row' % 32 := by
  simp only [cellIndex, Config.fbWidth, Config.fbHeight]
  omega

theorem rowCells_nodup (px py : Nat) (b : Byte) :
    ((rowColumns b).map fun col => cellIndex (px + col) py).Nodup := by
  refine List.Nodup.map_on (fun c hc c' hc' heq => ?_) (List.nodup_range.filter _)
  have hcol := ((cellIndex_eq_iff _ _ _ _).mp heq).1
  have hc8 := ((mem_rowColumns b c).mp hc).1
  have hc8' := ((mem_rowColumns b c').mp hc').1
  omega

/-- Up to 32 rows the vertical wrap does not reach the first row again, so no cell is targeted twice. -/
theorem spriteCells_nodup (px : Nat) (rows : List Byte) :
    ∀ py, rows.length ≤ 32 → (spriteCells px py rows).Nodup := by
  induction rows with
  | nil => exact fun _ _ => List.nodup_nil
  | cons b bs ih =>
    intro py hlen
    rw [List.length_cons] at hlen
    refine (rowCells_nodup px py b).append (ih (py + 1) (by omega)) fun k hfirst hlater => ?_
    obtain ⟨col, -, rfl⟩ := List.mem_map.mp hfirst
    obtain ⟨row, col', hrow, -, -, heq⟩ := (mem_spriteCells px bs (py + 1) _).mp hlater
    have hwrap := ((cellIndex_eq_iff _ _ _ _).mp heq).2
    omega

theorem spriteCells_lt {px py k : Nat} {rows : List Byte} (h : k ∈ spriteCells px py rows) : k < 2048 := by
  obtain ⟨row, col, -, -, -, rfl⟩ := (mem_spriteCells px rows py k).mp h
  exact cellIndex_lt _ _

/-! ### The sprite at I (rules R223 and R224) -/

/-- The cells DRW Vx,Vy,n targets in state s: those of the n bytes at I, drawn at (V[x], V[y]). -/
def State.targetCells (s : State) (x y : RegIndex) (n : BitVec 4) : List Nat :=
  spriteCells (s.getV x).toNat (s.getV y).toNat ((List.range n.toNat).map fun k => s.mem.read (s.base + k))

section
variable (s : State) (x y : RegIndex) (n : BitVec 4)

theorem mem_targetCells (k : Nat) : k ∈ s.targetCells x y n ↔ drawnAt s x y n k := by
  rw [State.targetCells, mem_spriteCells, drawnAt, List.length_map, List.length_range]
  refine exists_congr fun row => exists_congr fun col => and_congr_right fun hrow => ?_
  have hbyte : ((List.range n.toNat).map fun k => s.mem.read (s.base + k)).getD row 0 = s.mem.read (s.i.toNat + row) := by
    simp [List.getD_eq_getElem?_getD, hrow, State.base]
  rw [hbyte]
  rfl

/-- A sprite has at most 15 rows. -/
theorem targetCells_nodup : (s.targetCells x y n).Nodup :=
  spriteCells_nodup _ _ _ (by rw [List.length_map, List.length_range]; omega)

/-- The cells after the pixel loop (rules R227 and R228). -/
theorem fbCell_drawCells_targetCells (k : Nat) :
    fbCell (drawCells s.fb (s.targetCells x y n)).1 k = (fbCell s.fb k ^^ decide (k ∈ s.targetCells x y n)) :=
  (drawCells_spec s.fb (targetCells_nodup s x y n) fun _ => spriteCells_lt).1 k

/-- A collision is a target cell that was set (rule R229). -/
theorem drawCells_targetCells_collision :
    (drawCells s.fb (s.targetCells x y n)).2 = true ↔ ∃ k, drawnAt s x y n k ∧ fbCell s.fb k = true := by
  rw [(drawCells_spec s.fb (targetCells_nodup s x y n) fun _ => spriteCells_lt).2, List.any_eq_true]
  exact exists_congr fun k => and_congr_left' (mem_targetCells s x y n k)

/-- DRW with all its bytes in memory; a sprite of no rows reads none. -/
theorem exec_drw_of_in_range (h : n = 0 ∨ s.i.toNat + n.toNat ≤ 0x1000) :
    exec (.drw x y n) s = .next ((s.advance.setFB (drawCells s.fb (s.targetCells x y n)).1).setFlag
      (drawCells s.fb (s.targetCells x y n)).2) := by
  refine exec_drw_ok s x y n ?_
  rcases h with rfl | h
  · rfl
  · exact readBytes_of_range s.mem h

end

/-! ### The instructions of spec/44_display.md -/

/-- Settles O41: the framebuffer becomes the cleared one, and replacing it sets DIRTY. -/
theorem clearScreen : Obligations.ClearScreen := by
  intro s
  exact ⟨_, exec_cls s, rfl, fbCell_clear, rfl, by simp [unchangedBut_iff]⟩

/-- Settles O42: the target cells are distinct, so the pixel loop inverts each of them once and finds each as it was before
the draw; out of range the read raises and the fault is taken in the state before the step. -/
theorem drawSprite : Obligations.DrawSprite := by
  intro x y n s
  constructor
  · intro hin
    have hcell := fbCell_drawCells_targetCells s x y n
    have hcollision := drawCells_targetCells_collision s x y n
    refine ⟨_, exec_drw_of_in_range s x y n hin, rfl, fun k _ hdrawn => ?_, fun k _ hdrawn => ?_, fun hset => ?_,
      fun hclear => ?_, fun r hr => ?_, rfl, by simp [unchangedBut_iff]⟩
    · exact (hcell k).trans (by simp [mem_targetCells, hdrawn])
    · exact (hcell k).trans (by simp [mem_targetCells, hdrawn])
    · simp [hcollision.mpr hset, flagByte]
    · have hnone : (drawCells s.fb (s.targetCells x y n)).2 = false := by
        rw [← Bool.not_eq_true, hcollision]
        rintro ⟨k, hdrawn, hset⟩
        simp [hclear k hdrawn] at hset
      simp [hnone, flagByte]
    · simp [hr]
  · intro hn hout
    have hpos : 0 < n.toNat := Nat.pos_of_ne_zero fun h0 => hn (BitVec.eq_of_toNat_eq h0)
    exact exec_drw_error s x y n (readBytes_of_out_of_range s.mem hpos hout)

end Sys2Proof.Machine
end

section
/-! SUPPORT. The keys and timers (spec/45_keys_timers.md): the key skips with a valid index or the fault of decision D8, the
key wait and the key it binds, the two timers and their tick. -/

namespace Sys2Proof.Machine

/-! ### The key skips (rules R250 to R252) -/

/-- Settles O45: with a valid index SKP and SKNP are one skip with opposite tests; with none the index raises and the fault
is taken in the state before the step. -/
theorem keySkips : Obligations.KeySkips := by
  intro x s
  constructor
  · intro hvalid
    obtain ⟨t, ht, hpc, hframe⟩ := exec_skip_spec (exec_skp_ok s x hvalid) Iff.rfl
    obtain ⟨u, hu, hpc', hframe'⟩ := exec_skip_spec (exec_sknp_ok s x hvalid) (Bool.not_eq_true' _).to_iff
    exact ⟨⟨t, ht, hframe, hpc⟩, ⟨u, hu, hframe', hpc'⟩⟩
  · intro hinvalid
    exact ⟨exec_skp_error s x hinvalid, exec_sknp_error s x hinvalid⟩

/-! ### The key wait (rules R256 and R257) -/

/-- The sixteen bits of KEY are all the keys there are (rule R31). -/
theorem pressedKeys_eq_nil_iff (s : State) : s.pressedKeys = [] ↔ s.key = 0 := by
  constructor
  · intro hnil
    refine BitVec.eq_of_getLsbD_eq fun k hk => ?_
    have hup : ¬ (k < 16 ∧ s.keyDown k = true) := by simp [← mem_pressedKeys, hnil]
    simpa [hk, State.keyDown] using hup
  · intro hkey
    simp [State.pressedKeys, State.keyDown, hkey]

/-- A key index fits in a register, so the byte written reads back as the key. -/
theorem keyByte_toNat {k : Nat} (hk : k < 16) : (BitVec.ofNat 8 k).toNat = k := by
  rw [BitVec.toNat_ofNat]
  omega

/-- Settles O46: with no key pressed there is nothing to choose and the block waits; with one pressed the choice finds a key,
and whatever it finds is pressed. -/
theorem waitForKey : Obligations.WaitForKey := by
  intro x s
  constructor
  · intro hnone
    exact exec_ldVxK_wait s x ((pressedKeys_eq_nil_iff s).mpr hnone)
  · intro hsome
    have hpicks : chooseKey (Config.keyChoice s.keyPicks) s.pressedKeys ≠ none :=
      fun h => hsome ((pressedKeys_eq_nil_iff s).mp (chooseKey_none.mp h))
    obtain ⟨k, hk⟩ := Option.ne_none_iff_exists'.mp hpicks
    obtain ⟨hk16, hdown⟩ := (mem_pressedKeys s k).mp (chooseKey_mem hk)
    have hv (r : RegIndex) := State.getV_setV s.advance x r (BitVec.ofNat 8 k)
    have hbound : ((s.advance.setV x (BitVec.ofNat 8 k)).countPick.getV x).toNat = k := by
      rw [State.countPick_getV, hv, if_pos rfl, keyByte_toNat hk16]
    refine ⟨_, exec_ldVxK_bind s x hk, rfl, ?_, ?_, fun r hr => ?_, rfl, ?_⟩
    · rw [hbound, hdown]
    · rw [hbound]
      exact hk16
    · exact (hv r).trans (if_neg hr)
    · simp [unchangedBut_iff]

/-! ### The timers (rules R258 to R262) -/

theorem unchangedBut_advance_setDT (s : State) (b : Byte) : unchangedBut [.pc, .dt] s (s.advance.setDT b) := by
  simp [unchangedBut_iff]

theorem unchangedBut_advance_setST (s : State) (b : Byte) : unchangedBut [.pc, .st] s (s.advance.setST b) := by
  simp [unchangedBut_iff]

/-- Settles O48: the read is one register write, and each timer write replaces its own timer. -/
theorem timerReadAndWrite : Obligations.TimerReadAndWrite := by
  intro x s
  exact ⟨exec_setV_spec (exec_ldVxDT s x) rfl,
    ⟨_, exec_ldDTVx s x, rfl, rfl, unchangedBut_advance_setDT s _⟩,
    ⟨_, exec_ldSTVx s x, rfl, rfl, unchangedBut_advance_setST s _⟩⟩

/-- The floor of rule R262 is the one of subtraction on naturals. -/
theorem countDown_toNat (b : Byte) : (countDown b).toNat = b.toNat - 1 := by
  by_cases hzero : b = 0
  · simp [countDown, hzero]
  · rw [countDown, if_neg hzero]
    bv_omega

theorem unchangedBut_portTick (s : State) : unchangedBut [.dt, .st] s (portTick s) := by
  simp [unchangedBut_iff, portTick, State.getV]

/-- Settles O49: both timers count down, each on its own. -/
theorem tickDecrementsTimers : Obligations.TickDecrementsTimers := by
  intro s
  exact ⟨portTick s, rfl, countDown_toNat s.dt, countDown_toNat s.st, unchangedBut_portTick s⟩

end Sys2Proof.Machine
end

section
/-! SUPPORT. The host's ports (spec/70_reset_and_hazards.md): the key bit a press or a release replaces, the memory after a
program load, and DIRTY, which an instruction keeps or sets. -/

namespace Sys2Proof.Machine

/-! ### The key ports (rule R366) -/

section
variable (k : BitVec 4) (s : State)

theorem keyDown_portKeyPress (j : Nat) :
    (portKeyPress k s).keyDown j = if j = k.toNat then true else s.keyDown j := by
  have hk : k.toNat < 16 := k.isLt
  simp only [State.keyDown, portKeyPress, BitVec.getLsbD_or, BitVec.getLsbD_twoPow]
  by_cases hj : j = k.toNat
  · simp [hj, hk]
  · simp [hj, Ne.symm hj]

/-- KEY has sixteen bits, so past them the complemented mask clears nothing that was set. -/
theorem keyDown_portKeyRelease (j : Nat) :
    (portKeyRelease k s).keyDown j = if j = k.toNat then false else s.keyDown j := by
  have hk : k.toNat < 16 := k.isLt
  simp only [State.keyDown, portKeyRelease, BitVec.getLsbD_and, BitVec.getLsbD_not, BitVec.getLsbD_twoPow]
  by_cases hj : j = k.toNat
  · simp [hj, hk]
  · by_cases hj16 : j < 16
    · simp [hj, Ne.symm hj, hj16]
    · simp [hj, BitVec.getLsbD_of_ge s.key j (Nat.not_lt.mp hj16)]

theorem unchangedBut_portKeyPress : unchangedBut [.key] s (portKeyPress k s) := by
  simp [unchangedBut_iff, portKeyPress, State.getV]

theorem unchangedBut_portKeyRelease : unchangedBut [.key] s (portKeyRelease k s) := by
  simp [unchangedBut_iff, portKeyRelease, State.getV]

end

/-- Settles O50: the press sets and the release clears the one bit of KEY that the mask names. -/
theorem keyPressAndRelease : Obligations.KeyPressAndRelease := by
  intro k s
  exact ⟨⟨_, rfl, unchangedBut_portKeyPress k s, keyDown_portKeyPress k s⟩,
    ⟨_, rfl, unchangedBut_portKeyRelease k s, keyDown_portKeyRelease k s⟩⟩

/-! ### The load port (rules R342 and R343) -/

theorem portLoad_of_fits {bytes : List Byte} (s : State) (h : bytes.length ≤ 3584) :
    portLoad bytes s = (.loaded, s.setMem (s.mem.writeList 0x200 bytes)) :=
  if_pos h

theorem portLoad_of_too_long {bytes : List Byte} (s : State) (h : 3584 < bytes.length) :
    portLoad bytes s = (.romTooLarge, s) :=
  if_neg h.not_ge

theorem unchangedBut_setMem (s : State) (m : Memory) : unchangedBut [.mem] s (s.setMem m) := by
  simp [unchangedBut_iff]

/-- Settles O51: a program that fits is one write of its bytes from 0x200 on, and one that does not leaves the state. -/
theorem programLoad : Obligations.ProgramLoad := by
  intro bytes s
  constructor
  · intro hfits
    have hread := Memory.read_writeList bytes s.mem 0x200
    refine ⟨_, portLoad_of_fits s hfits, unchangedBut_setMem s _, fun k hk => ?_, fun a ha => ?_⟩
    · rw [State.setMem_mem, hread, if_pos (by omega), Nat.add_sub_cancel_left]
    · rw [State.setMem_mem, hread, if_neg (by omega)]
  · exact portLoad_of_too_long s

/-! ### DIRTY (rules R30 and R364) -/

theorem unchangedBut_portDirtyClear (s : State) : unchangedBut [.dirty] s (portDirtyClear s) := by
  simp [unchangedBut_iff, portDirtyClear, State.getV]

/-- The two framebuffer writers are the instructions that write DIRTY. -/
theorem dirty_mem_partsWritten {i : Instr} (h : .dirty ∈ partsWritten i) : i = .cls ∨ ∃ x y n, i = .drw x y n := by
  cases i <;> simp [partsWritten] at h ⊢

/-- DRW sets DIRTY when it draws, and keeps it when it faults. -/
theorem exec_drw_keeps_dirty {s t : State} {x y : RegIndex} {n : BitVec 4} (h : exec (.drw x y n) s = .next t)
    (hdirty : s.dirty = true) : t.dirty = true := by
  cases hread : readBytes s.mem s.base n.toNat with
  | error r =>
    obtain rfl : s.takeFault r = t := by simpa [exec_drw_error s x y n hread] using h
    exact hdirty
  | ok rows =>
    rw [exec_drw_ok s x y n hread] at h
    cases h
    rfl

theorem exec_keeps_dirty {i : Instr} {s t : State} (h : exec i s = .next t) (hdirty : s.dirty = true) :
    t.dirty = true := by
  by_cases hwrites : .dirty ∈ partsWritten i
  · rcases dirty_mem_partsWritten hwrites with rfl | ⟨x, y, n, rfl⟩
    · rw [exec_cls] at h
      cases h
      rfl
    · exact exec_drw_keeps_dirty h hdirty
  · have hsame : t.dirty = s.dirty := stateChangesOnlyByNamedInstructions i s t h .dirty (by simp [hwrites])
    rw [hsame, hdirty]

theorem step_keeps_dirty {s t : State} (h : step s = .next t) (hdirty : s.dirty = true) : t.dirty = true := by
  rcases step_cases h with ⟨-, rfl⟩ | ⟨-, r, -, rfl⟩ | ⟨-, w, e, -, -, rfl⟩ | ⟨-, w, i, -, -, hexec⟩
  · exact hdirty
  · exact hdirty
  · exact hdirty
  · exact exec_keeps_dirty hexec hdirty

/-- Settles O52: dirty_clear replaces DIRTY alone, and no way a step can go clears it. -/
theorem dirtyIsClearedOnlyByTheHost : Obligations.DirtyIsClearedOnlyByTheHost := by
  constructor
  · intro s
    exact ⟨rfl, _, rfl, rfl, unchangedBut_portDirtyClear s⟩
  · intro s t
    exact step_keeps_dirty

end Sys2Proof.Machine
end

section
/-! SUPPORT. The decoder read backwards (rules R84 to R87): a word that decodes is the word of its instruction, and the words
that do not are those of rule R87's list outside selector 0. -/

namespace Sys2Proof

/-! ### A word whose selector is known (rule R81) -/

section
variable {w : Word} {o : BitVec 4} (h : opField w = o)
include h

theorem wordNnn_of_opField : wordNnn o (nnnField w) = w := h ▸ wordNnn_of_fields w

theorem wordXkk_of_opField : wordXkk o (xField w) (kkField w) = w := h ▸ wordXkk_of_fields w

theorem wordXyn_of_opField : wordXyn o (xField w) (yField w) (nField w) = w := h ▸ wordXyn_of_fields w

end

/-! ### What a grouped selector answers -/

section
variable {x y n : BitVec 4} {kk : Byte} {i : Instr} {e : DecodeReject}

theorem encode_decode0 (nnn : Addr12) :
    (decode0 nnn).wellFormed = true ∧ encode (decode0 nnn) = wordNnn 0x0 nnn := by
  unfold decode0
  split_ifs with hcls hret
  · exact hcls ▸ ⟨rfl, rfl⟩
  · exact hret ▸ ⟨rfl, rfl⟩
  · exact ⟨Bool.and_eq_true_iff.mpr ⟨bne_iff_ne.mpr hcls, bne_iff_ne.mpr hret⟩, rfl⟩

theorem encode_of_decode8 (h : decode8 x y n = .ok i) : i.wellFormed = true ∧ encode i = wordXyn 0x8 x y n := by
  unfold decode8 at h
  split at h <;> cases h <;> exact ⟨rfl, rfl⟩

theorem encode_of_decodeE (h : decodeE x kk = .ok i) : i.wellFormed = true ∧ encode i = wordXkk 0xE x kk := by
  unfold decodeE at h
  split at h <;> cases h <;> exact ⟨rfl, rfl⟩

theorem encode_of_decodeF (h : decodeF x kk = .ok i) : i.wellFormed = true ∧ encode i = wordXkk 0xF x kk := by
  unfold decodeF at h
  split at h <;> cases h <;> exact ⟨rfl, rfl⟩

theorem subselector_of_decode8_error (h : decode8 x y n = .error e) :
    n ∈ [0x8#4, 0x9#4, 0xA#4, 0xB#4, 0xC#4, 0xD#4, 0xF#4] := by
  unfold decode8 at h
  split at h
  case h_10 =>
    clear h
    revert n
    decide
  all_goals cases h

theorem subselector_of_decodeE_error (h : decodeE x kk = .error e) : kk ∉ [0x9E#8, 0xA1#8] := by
  unfold decodeE at h
  split at h
  case h_3 => simp_all
  all_goals cases h

theorem subselector_of_decodeF_error (h : decodeF x kk = .error e) :
    kk ∉ [0x07#8, 0x0A#8, 0x15#8, 0x18#8, 0x1E#8, 0x29#8, 0x33#8, 0x55#8, 0x65#8] := by
  unfold decodeF at h
  split at h
  case h_10 => simp_all
  all_goals cases h

end

/-! ### The whole map -/

/-- The sixteen selectors are four bits, so the one no row before F names is F itself. -/
theorem eq_selectorF_of_ne : ∀ o : BitVec 4,
    o ∉ [0x0#4, 0x1#4, 0x2#4, 0x3#4, 0x4#4, 0x5#4, 0x6#4, 0x7#4, 0x8#4, 0x9#4, 0xA#4, 0xB#4, 0xC#4, 0xD#4, 0xE#4] →
      o = 0xF#4 := by
  decide

/-- Settles O2: in every selector the word is put together again from the fields the decoder read, and a sub-selector that
passed is the constant of its row. -/
theorem encodeOfDecode : Obligations.EncodeOfDecode := by
  intro w i h
  unfold decode at h
  split at h
  case h_1 hop =>
    cases h
    exact (encode_decode0 _).imp_right (·.trans (wordNnn_of_opField hop))
  case h_2 hop | h_3 hop | h_11 hop | h_12 hop =>
    cases h
    exact ⟨rfl, wordNnn_of_opField hop⟩
  case h_4 hop | h_5 hop | h_7 hop | h_8 hop | h_13 hop =>
    cases h
    exact ⟨rfl, wordXkk_of_opField hop⟩
  case h_6 hop | h_10 hop =>
    split at h <;> cases h
    next hn => exact ⟨rfl, (congrArg (wordXyn _ _ _) hn.symm).trans (wordXyn_of_opField hop)⟩
  case h_9 hop => exact (encode_of_decode8 h).imp_right (·.trans (wordXyn_of_opField hop))
  case h_14 hop =>
    cases h
    exact ⟨rfl, wordXyn_of_opField hop⟩
  case h_15 hop => exact (encode_of_decodeE h).imp_right (·.trans (wordXkk_of_opField hop))
  case h_16 =>
    have hop : opField w = 0xF#4 := eq_selectorF_of_ne _ (by simp_all)
    exact (encode_of_decodeF h).imp_right (·.trans (wordXkk_of_opField hop))

end Sys2Proof

namespace Sys2Proof.Machine

/-- Only the selectors with a sub-selector reject, and none of them is 0. -/
theorem isDecodeFailure_of_decode_error {w : Word} {e : DecodeReject} (h : decode w = .error e) :
    isDecodeFailure w ∧ opField w ≠ 0 := by
  unfold decode at h
  split at h
  case h_6 hop =>
    split at h <;> cases h
    next hn => exact ⟨.inr (.inl ⟨.inl hop, hn⟩), by simp [hop]⟩
  case h_9 hop => exact ⟨.inr (.inr (.inl ⟨hop, subselector_of_decode8_error h⟩)), by simp [hop]⟩
  case h_10 hop =>
    split at h <;> cases h
    next hn => exact ⟨.inr (.inl ⟨.inr hop, hn⟩), by simp [hop]⟩
  case h_15 hop => exact ⟨.inr (.inr (.inr (.inl ⟨hop, subselector_of_decodeE_error h⟩))), by simp [hop]⟩
  case h_16 =>
    have hop : opField w = 0xF#4 := eq_selectorF_of_ne _ (by simp_all)
    exact ⟨.inr (.inr (.inr (.inr ⟨hop, subselector_of_decodeF_error h⟩))), by simp [hop]⟩
  all_goals cases h

theorem opField_zextAddr (nnn : Addr12) : opField (zextAddr nnn) = 0 := by
  rw [← wordNnn_zero, opField_wordNnn]

/-- Settles O3: a word of the list that decodes is a SYS word, so its selector is 0. -/
theorem rejectedWordsAreExactly : Obligations.RejectedWordsAreExactly := by
  intro w
  constructor
  · rintro ⟨e, he⟩
    exact isDecodeFailure_of_decode_error he
  · rintro ⟨hlist, hop⟩
    refine (decode_of_isDecodeFailure hlist).resolve_right ?_
    rintro ⟨nnn, -, rfl⟩
    exact hop (opField_zextAddr nnn)

end Sys2Proof.Machine
end

section
/-! SUPPORT. What an instruction does, held to the spec's own tables (rules R25, R53 and R301): the fault of its row, or pc
at its row, FAULT as it was and memory as it was or as one checked write left it. -/

namespace Sys2Proof.Machine

/-! ### The tables and the operations they speak of -/

theorem ofNat_eq_zextAddr (nnn : Addr12) : BitVec.ofNat 16 nnn.toNat = zextAddr nnn :=
  BitVec.ofNat_toNat 16 nnn

/-- The sum of rule R132 is taken modulo 2^16. -/
theorem ofNat_add_eq_zext_add (nnn : Addr12) (b : Byte) :
    BitVec.ofNat 16 (nnn.toNat + b.toNat) = zextAddr nnn + zextByte b := by
  rw [BitVec.ofNat_add, ofNat_eq_zextAddr, BitVec.ofNat_toNat, zextByte]

/-- The closed form of rule R301 is what the checked write answers (rules R59 and R60). -/
theorem writeCheckAll_eq_ruleWriteFault (a : Nat) {n : Nat} (hn : n ≠ 0) : writeCheckAll a n = ruleWriteFault a n := by
  rw [writeCheckAll_eq, if_neg hn]
  rfl

section
variable (m : Memory) {a n : Nat} {bs : List Byte} {r : Raised}

theorem writeBytes_of_ruleWriteFault_some (hne : bs.length ≠ 0) (h : ruleWriteFault a bs.length = some r) :
    writeBytes m a bs = .error r := by
  rw [writeBytes, writeCheckAll_eq_ruleWriteFault a hne, h]

theorem writeBytes_of_ruleWriteFault_none (hne : bs.length ≠ 0) (h : ruleWriteFault a bs.length = none) :
    writeBytes m a bs = .ok (m.writeList a bs) := by
  rw [writeBytes, writeCheckAll_eq_ruleWriteFault a hne, h]

theorem readBytes_of_ruleReadFault_some (h : ruleReadFault a n = some r) : readBytes m a n = .error r := by
  unfold ruleReadFault at h
  split at h <;> cases h
  next hout => rw [readBytes_eq, if_pos hout]

theorem readBytes_of_ruleReadFault_none (h : ruleReadFault a n = none) :
    readBytes m a n = .ok ((List.range n).map fun k => m.read (a + k)) := by
  unfold ruleReadFault at h
  split at h <;> cases h
  next hin => rw [readBytes_eq, if_neg hin]

end

/-! ### The effect of an instruction that raises no fault -/

/-- From s, instruction i raises no fault, and t is what its rows of the tables allow. -/
structure Instr.Effect (i : Instr) (s t : State) : Prop where
  raisesNone : ruleFault i s = none
  fault : t.fault = s.fault
  pc : t.pc = rulePc i s
  mem : t.mem = s.mem ∨ ∃ bs, writeBytes s.mem s.base bs = .ok t.mem

section
variable {i : Instr} {s : State}

/-- A skip's effect, with the machine's test `c` read as its row's condition `p`. -/
theorem effect_skip {c : Bool} {p : Prop} [Decidable p] (hfault : ruleFault i s = none)
    (hpc : rulePc i s = ruleSkipPc s p) (hc : c = true ↔ p) : Instr.Effect i s (s.advance.skipIf c) where
  raisesNone := hfault
  fault := by rw [State.skipIf_eq]; rfl
  pc := by rw [advance_skipIf_pc, hpc, ruleSkipPc]; simp only [hc]
  mem := .inl (by rw [State.skipIf_eq]; rfl)

/-- An instruction that stores bytes from I on meets the tables when its row names the checked write of those bytes. -/
theorem exec_writeBytes_cases {bs : List Byte}
    (hok : ∀ m, writeBytes s.mem s.base bs = .ok m → exec i s = .next (s.advance.setMem m))
    (herror : ∀ r, writeBytes s.mem s.base bs = .error r → exec i s = .next (s.takeFault r))
    (hne : bs.length ≠ 0) (hrule : ruleFault i s = ruleWriteFault s.base bs.length) (hpc : rulePc i s = s.pc + 2) :
    (∃ r, ruleFault i s = some r ∧ exec i s = .next (s.takeFault r)) ∨ ∃ t, exec i s = .next t ∧ Instr.Effect i s t := by
  cases hf : ruleWriteFault s.base bs.length with
  | some r => exact .inl ⟨r, hrule.trans hf, herror r (writeBytes_of_ruleWriteFault_some s.mem hne hf)⟩
  | none =>
    have hw := writeBytes_of_ruleWriteFault_none s.mem hne hf
    exact .inr ⟨_, hok _ hw, hrule.trans hf, rfl, hpc.symm, .inr ⟨bs, hw⟩⟩

end

/-- Every instruction takes the fault of its row, in the state before it, or has the effect of its rows. -/
theorem exec_cases (i : Instr) (s : State) :
    (∃ r, ruleFault i s = some r ∧ exec i s = .next (s.takeFault r)) ∨ ∃ t, exec i s = .next t ∧ Instr.Effect i s t := by
  cases i with
  | jp nnn => exact .inr ⟨_, exec_jp s nnn, rfl, rfl, (ofNat_eq_zextAddr nnn).symm, .inl rfl⟩
  | jpV0 nnn => exact .inr ⟨_, exec_jpV0 s nnn, rfl, rfl, (ofNat_add_eq_zext_add nnn _).symm, .inl rfl⟩
  | seImm x kk => exact .inr ⟨_, exec_seImm s x kk, effect_skip rfl rfl beq_iff_eq⟩
  | sneImm x kk => exact .inr ⟨_, exec_sneImm s x kk, effect_skip rfl rfl bne_iff_ne⟩
  | seReg x y => exact .inr ⟨_, exec_seReg s x y, effect_skip rfl rfl beq_iff_eq⟩
  | sneReg x y => exact .inr ⟨_, exec_sneReg s x y, effect_skip rfl rfl bne_iff_ne⟩
  | ret =>
    by_cases h : 0 < s.sp.val
    · have hsp : s.sp ≠ 0 := fun h0 => by simp [h0] at h
      refine .inr ⟨_, exec_ret_ok s h, if_neg hsp, rfl, ?_, .inl rfl⟩
      have hlt : s.sp.val - 1 < s.stack.toList.length := by rw [Vector.length_toList]; omega
      exact (List.getD_eq_getElem _ _ hlt).symm
    · exact .inl ⟨_, if_pos (Fin.ext (by simpa using h)), exec_ret_empty s h⟩
  | call nnn =>
    by_cases h : s.sp.val < 16
    · have hsp : s.sp ≠ 16 := fun h0 => by simp [h0] at h
      exact .inr ⟨_, exec_call_ok s nnn h, if_neg hsp, rfl, (ofNat_eq_zextAddr nnn).symm, .inl rfl⟩
    · have hsp : s.sp.val = 16 := by omega
      exact .inl ⟨_, if_pos (Fin.ext hsp), exec_call_full s nnn h⟩
  | skp x =>
    by_cases h : 15 < (s.getV x).toNat
    · exact .inl ⟨_, if_pos h, exec_skp_error s x h⟩
    · exact .inr ⟨_, exec_skp_ok s x (Nat.not_lt.mp h), effect_skip (if_neg h) rfl Iff.rfl⟩
  | sknp x =>
    by_cases h : 15 < (s.getV x).toNat
    · exact .inl ⟨_, if_pos h, exec_sknp_error s x h⟩
    · exact .inr ⟨_, exec_sknp_ok s x (Nat.not_lt.mp h), effect_skip (if_neg h) rfl (Bool.not_eq_true' _).to_iff⟩
  | ldVxK x =>
    have hkey := pressedKeys_eq_nil_iff s
    cases h : chooseKey (Config.keyChoice s.keyPicks) s.pressedKeys with
    | none =>
      have hnil := chooseKey_none.mp h
      exact .inr ⟨s, exec_ldVxK_wait s x hnil, rfl, rfl, (if_pos (hkey.mp hnil)).symm, .inl rfl⟩
    | some k =>
      have hsome : s.key ≠ 0 := fun h0 => by simp [chooseKey_none.mpr (hkey.mpr h0)] at h
      exact .inr ⟨_, exec_ldVxK_bind s x h, rfl, rfl, (if_neg hsome).symm, .inl rfl⟩
  | ldB x => exact exec_writeBytes_cases (fun _ => exec_ldB_ok s x) (fun _ => exec_ldB_error s x) (by simp) rfl rfl
  | storeRegs x =>
    have hlen := s.lowRegs_length x
    exact exec_writeBytes_cases (fun _ => exec_storeRegs_ok s x) (fun _ => exec_storeRegs_error s x) (by simp [hlen])
      (by rw [hlen]; rfl) rfl
  | loadRegs x =>
    cases h : ruleReadFault s.i.toNat (x.toNat + 1) with
    | some r => exact .inl ⟨r, h, exec_loadRegs_error s x (readBytes_of_ruleReadFault_some s.mem h)⟩
    | none => exact .inr ⟨_, exec_loadRegs_ok s x (readBytes_of_ruleReadFault_none s.mem h), h, rfl, rfl, .inl rfl⟩
  | drw x y n =>
    cases h : ruleReadFault s.i.toNat n.toNat with
    | some r => exact .inl ⟨r, h, exec_drw_error s x y n (readBytes_of_ruleReadFault_some s.mem h)⟩
    | none => exact .inr ⟨_, exec_drw_ok s x y n (readBytes_of_ruleReadFault_none s.mem h), h, rfl, rfl, .inl rfl⟩
  | _ => exact .inr ⟨_, rfl, rfl, rfl, rfl, .inl rfl⟩

/-- The same of a next state that is given. -/
theorem exec_next_cases {i : Instr} {s t : State} (h : exec i s = .next t) :
    (∃ r, ruleFault i s = some r ∧ t = s.takeFault r) ∨ Instr.Effect i s t := by
  rcases exec_cases i s with ⟨r, hrule, hr⟩ | ⟨u, hu, heffect⟩
  · exact .inl ⟨r, hrule, by simpa [hr, eq_comm] using h⟩
  · obtain rfl : u = t := by simpa [hu] using h
    exact .inr heffect

end Sys2Proof.Machine
end

section
/-! SUPPORT. The model's invariant (rules R51, R52 and R59): what is written, by a step or by a load, lies in program space,
so every transaction keeps the canonical form and the reserved range. And the values after reset (rule R37). -/

namespace Sys2Proof.Machine

/-! ### Memory written in program space -/

/-- The invariant is about memory alone. -/
theorem State.Inv.of_mem_eq {s t : State} (hinv : s.Inv) (hmem : t.mem = s.mem) : t.Inv := by
  obtain ⟨hwf, hreserved⟩ := hinv
  exact ⟨hmem ▸ hwf, fun a ha => hmem ▸ hreserved a ha⟩

theorem State.Inv.of_writeList {s t : State} {a : Nat} {bs : List Byte} (hinv : s.Inv) (hlow : 0x200 ≤ a)
    (hhigh : a + bs.length ≤ 0x1000) (hmem : t.mem = s.mem.writeList a bs) : t.Inv := by
  obtain ⟨hwf, hreserved⟩ := hinv
  refine ⟨hmem ▸ Memory.writeList_wf bs hwf hhigh, fun b hb => ?_⟩
  have hb' : b < 0x200 := hb
  rw [hmem, Memory.read_writeList, if_neg (by omega), hreserved b hb]

/-- A checked write answers only inside program space (rules R59 and R60). -/
theorem State.Inv.of_writeBytes {s t : State} {a : Nat} {bs : List Byte} (hinv : s.Inv)
    (h : writeBytes s.mem a bs = .ok t.mem) : t.Inv := by
  obtain ⟨hmem, hrange⟩ := writeBytes_ok h
  rcases eq_or_ne bs [] with rfl | hne
  · exact hinv.of_mem_eq hmem
  · obtain ⟨hlow, hhigh⟩ := hrange hne
    exact hinv.of_writeList hlow hhigh hmem

/-! ### Steps, ports and sessions -/

theorem reset_inv : State.reset.Inv := ⟨Memory.empty_wf, fun _ _ => rfl⟩

theorem exec_keeps_inv {i : Instr} {s t : State} (hinv : s.Inv) (h : exec i s = .next t) : t.Inv := by
  rcases exec_next_cases h with ⟨r, -, rfl⟩ | heffect
  · exact hinv.of_mem_eq rfl
  · rcases heffect.mem with hmem | ⟨bs, hwrite⟩
    · exact hinv.of_mem_eq hmem
    · exact hinv.of_writeBytes hwrite

/-- Settles O16: of the ways a step can go only a stored list of bytes changes memory, and that lies in program space. -/
theorem stepKeepsInvariant : Obligations.StepKeepsInvariant := by
  intro s t hinv h
  rcases step_cases h with ⟨-, rfl⟩ | ⟨-, r, -, rfl⟩ | ⟨-, w, e, -, -, rfl⟩ | ⟨-, w, i, -, -, hexec⟩
  · exact hinv
  · exact hinv.of_mem_eq rfl
  · exact hinv.of_mem_eq rfl
  · exact exec_keeps_inv hinv hexec

/-- A program that fits ends inside memory (rule R342). -/
theorem portLoad_keeps_inv {s : State} (bytes : List Byte) (hinv : s.Inv) : (portLoad bytes s).2.Inv := by
  rcases Nat.lt_or_ge 3584 bytes.length with hlong | hfits
  · rw [portLoad_of_too_long s hlong]
    exact hinv
  · rw [portLoad_of_fits s hfits]
    exact hinv.of_writeList (le_refl 0x200) (by omega) rfl

theorem portStep_keeps_inv {e : PortEvent} {s t : State} (hinv : s.Inv) (h : portStep e s = .next t) : t.Inv := by
  cases e with
  | reset =>
    cases h
    exact reset_inv.of_mem_eq rfl
  | load bytes =>
    cases h
    exact portLoad_keeps_inv bytes hinv
  | step => exact stepKeepsInvariant s t hinv h
  | tick | keyPress | keyRelease | dirtyClear =>
    cases h
    exact hinv.of_mem_eq rfl

/-- What every transaction of a session keeps, the session keeps. -/
theorem runPorts_induction {P : State → Prop} (hstep : ∀ e s t, P s → portStep e s = .next t → P t) :
    ∀ (es : List PortEvent) (s t : State), P s → runPorts es s = .next t → P t := by
  intro es
  induction es with
  | nil =>
    intro s t hs h
    cases h
    exact hs
  | cons e es ih =>
    intro s t hs h
    rw [runPorts] at h
    split at h
    case h_1 u hu => exact ih u t (hstep e s u hs hu) h
    all_goals cases h

/-- Settles O17: by induction on the session, whose transactions each keep the invariant. -/
theorem sessionKeepsInvariant : Obligations.SessionKeepsInvariant :=
  runPorts_induction fun _ _ _ => portStep_keeps_inv

/-- Settles O15: nothing is listed at reset, so every address reads as construction left it. -/
theorem resetMeetsInvariant : Obligations.ResetMeetsInvariant := reset_inv

/-! ### The values after reset (rules R37 and R340) -/

/-- The table of rule R37 says nothing of the model's two counters, in which State.reset and the reset port differ. -/
theorem portReset_hasResetValues (s : State) : (portReset s).hasResetValues := by
  refine ⟨fun r => ?_, rfl, rfl, rfl, fun k => ?_, rfl, rfl, fbCell_clear, fun k => ?_, rfl, rfl, rfl, fun _ _ => rfl,
    fun _ => Memory.initial_of_ge⟩
  · exact Vector.getElem_replicate _
  · exact Vector.getElem_replicate _
  · exact BitVec.getLsbD_zero

/-- Settles O18: State.reset is what the reset port leaves of itself, its counters being 0. -/
theorem resetValues : Obligations.ResetValues :=
  ⟨portReset_hasResetValues State.reset, fun s => ⟨portReset s, rfl, portReset_hasResetValues s, rfl, rfl⟩⟩

end Sys2Proof.Machine
end

section
/-! SUPPORT. The step (spec/40_cycle.md) and its faults (spec/60_exceptions.md): that every transaction answers a next state,
which words a step records, which faults it takes and where it leaves pc, all read off `step_cases` and `exec_next_cases`. -/

namespace Sys2Proof.Machine

/-! ### Every transaction answers a next state (rules R11 and R300) -/

theorem step_isNext (s : State) : ∃ t, step s = .next t := by
  cases hf : s.fault with
  | some f => exact ⟨s, step_halted (by simp [hf])⟩
  | none =>
    cases hw : fetchWord s with
    | error r => exact ⟨_, step_fetchFault hf hw⟩
    | ok w =>
      cases hd : decode w with
      | error e => exact ⟨_, step_decodeFailure hf hw hd⟩
      | ok i => exact step_exec hf hw hd ▸ exec_isNext s i

theorem portStep_isNext (e : PortEvent) (s : State) : ∃ t, portStep e s = .next t := by
  cases e with
  | step => exact step_isNext s
  | _ => exact ⟨_, rfl⟩

/-- Settles O10: by induction on the session, whose transactions each answer a next state. -/
theorem everySessionContinues : Obligations.EverySessionContinues := by
  intro es
  induction es with
  | nil => exact fun s => ⟨s, rfl⟩
  | cons e es ih =>
    intro s
    obtain ⟨t, ht⟩ := portStep_isNext e s
    obtain ⟨u, hu⟩ := ih t
    exact ⟨u, by simp only [runPorts, ht, hu]⟩

/-! ### The fetched word (rules R100 to R110) -/

/-- Settles O5: two bytes in memory are what the fetch reads. -/
theorem stepRunsDecodedInstruction : Obligations.StepRunsDecodedInstruction := by
  intro s i hf hin hd
  exact step_exec hf (fetchWord_of_in_range hin) hd

/-- Settles O9: SYS is the decode failure of its own word. -/
theorem sysIsNoOpWithRecord : Obligations.SysIsNoOpWithRecord := by
  intro nnn s
  exact ⟨_, exec_sys s nnn, rfl, by rw [ofNat_eq_zextAddr]; rfl, unchangedBut_decodeFailure _ s⟩

/-- SYS is the one instruction whose word is on rule R87's list (rule R108). -/
theorem exists_sys_of_isDecodeFailure {w : Word} {i : Instr} (hd : decode w = .ok i) (h : isDecodeFailure w) :
    ∃ nnn, i = .sys nnn := by
  rcases decode_of_isDecodeFailure h with ⟨e, he⟩ | ⟨nnn, hsys, -⟩
  · simp [hd] at he
  · exact ⟨nnn, by simpa [hd] using hsys⟩

theorem isDecodeFailure_of_decode_sys {w : Word} {nnn : Addr12} (hd : decode w = .ok (.sys nnn)) : isDecodeFailure w := by
  obtain ⟨hwf, rfl⟩ := encodeOfDecode w _ hd
  have hfield : nnn ≠ 0x0E0 ∧ nnn ≠ 0x0EE := by simpa [Instr.wellFormed, sysField] using hwf
  exact .inl (by simpa [encode] using hfield)

/-- Only SYS writes DIAG (rule R33). -/
theorem exec_keeps_diag {i : Instr} {s t : State} (h : exec i s = .next t) (hne : ∀ nnn, i ≠ .sys nnn) :
    t.diag = s.diag := by
  have hparts : .diag ∉ partsWritten i := by cases i <;> simp_all [partsWritten]
  exact stateChangesOnlyByNamedInstructions i s t h .diag (by simp [hparts])

/-- A word off rule R87's list is an instruction, and not SYS, so its step keeps DIAG. -/
theorem step_keeps_diag {s t : State} {w : Word} (hf : s.fault = none) (hw : fetchWord s = .ok w)
    (h : step s = .next t) (hlist : ¬ isDecodeFailure w) : t.diag = s.diag := by
  cases hd : decode w with
  | error e => exact absurd (isDecodeFailure_of_decode_error hd).1 hlist
  | ok i =>
    rw [step_exec hf hw hd] at h
    exact exec_keeps_diag h fun nnn hi => hlist (isDecodeFailure_of_decode_sys (nnn := nnn) (hi ▸ hd))

/-- Settles O8: on the list the step appends the record, off it DIAG is kept, and the two differ. -/
theorem recordExactlyOnDecodeFailure : Obligations.RecordExactlyOnDecodeFailure := by
  intro s t w hf hw h
  by_cases hlist : isDecodeFailure w
  · rw [step_of_isDecodeFailure hf hw hlist] at h
    cases h
    simp [hlist, decodeFailure]
  · simp [hlist, step_keeps_diag hf hw h hlist]

/-! ### Faults (rules R301, R306 and R307) -/

/-- Settles O11: the two cases of `exec_next_cases` are the two rows of the match. -/
theorem faultEntryIsPrecise : Obligations.FaultEntryIsPrecise := by
  intro i s t h
  rcases exec_next_cases h with ⟨r, hrule, rfl⟩ | heffect
  · rw [hrule]
    rfl
  · rw [heffect.raisesNone]
    exact heffect.fault

theorem exec_fault_iff {i : Instr} {s t : State} {f : FaultRecord} (hf : s.fault = none) (h : exec i s = .next t) :
    t.fault = some f ↔ ∃ r, ruleFault i s = some r ∧ f = ⟨r.cause, r.info, s.pc⟩ := by
  have hprecise := faultEntryIsPrecise i s t h
  cases hrule : ruleFault i s with
  | some r =>
    rw [hrule] at hprecise
    simp [hprecise, eq_comm]
  | none =>
    rw [hrule] at hprecise
    simp [hprecise, hf]

/-- Settles O12: a fetch fault excludes a fetched word, a rejected word has no row, and an instruction meets its own. -/
theorem stepFaultsByTheTable : Obligations.StepFaultsByTheTable := by
  intro s t f hf h
  rcases step_cases h with ⟨hfault, -⟩ | ⟨-, r, hw, rfl⟩ | ⟨-, w, e, hw, hd, rfl⟩ | ⟨-, w, i, hw, hd, hexec⟩
  · exact absurd hf hfault
  · obtain ⟨hout, rfl⟩ := fetchWord_error hw
    simp [hw, hout, eq_comm]
  · obtain ⟨hin, -⟩ := fetchWord_ok hw
    simp [hw, hd, hin.not_ge, decodeFailure, hf]
  · obtain ⟨hin, -⟩ := fetchWord_ok hw
    simp [hw, hd, hin.not_ge, exec_fault_iff hf hexec]

/-- No port but reset reaches the FAULT of a halted block (rule R307). -/
theorem portStep_keeps_fault {e : PortEvent} {s t : State} (hf : s.fault ≠ none) (h : portStep e s = .next t)
    (he : e ≠ .reset) : t.fault = s.fault := by
  cases e with
  | reset => exact absurd rfl he
  | step =>
    obtain rfl : s = t := by simpa [portStep, step_halted hf] using h
    rfl
  | load bytes =>
    cases h
    unfold portLoad
    split <;> rfl
  | tick | keyPress | keyRelease | dirtyClear =>
    cases h
    rfl

/-- Settles O13: the step is halted, only the reset port writes FAULT, and the host's other ports act in any state. -/
theorem faultedBlockIsHalted : Obligations.FaultedBlockIsHalted := by
  intro s hf
  refine ⟨step_halted hf, fun e t h => ⟨fun hnone => ?_, ?_⟩, fun e t => portStep_keeps_fault hf,
    ⟨_, rfl, countDown_toNat _, countDown_toNat _⟩, fun k => ⟨_, rfl, ?_⟩, fun k => ⟨_, rfl, ?_⟩, ⟨_, rfl, rfl⟩⟩
  · by_contra he
    exact hf ((portStep_keeps_fault hf h he).symm.trans hnone)
  · rintro rfl
    cases h
    rfl
  · exact (keyDown_portKeyPress k s _).trans (if_pos rfl)
  · exact (keyDown_portKeyRelease k s _).trans (if_pos rfl)

/-! ### pc (rule R25) -/

theorem exec_pc {i : Instr} {s t : State} (h : exec i s = .next t) :
    t.pc = if (ruleFault i s).isSome then s.pc else rulePc i s := by
  rcases exec_next_cases h with ⟨r, hrule, rfl⟩ | heffect
  · simp [hrule]
  · simp [heffect.raisesNone, heffect.pc]

/-- Settles O14: an instruction's row, the default advance of a decode failure, and pc kept by the fetch's fault. -/
theorem pcAfterEveryInstruction : Obligations.PcAfterEveryInstruction := by
  refine ⟨fun i s t => exec_pc, fun s t w hf hw hlist h => ?_, fun s t hf hout h => ?_⟩
  · rw [step_of_isDecodeFailure hf hw hlist] at h
    cases h
    rfl
  · rw [step_fetchFault hf (fetchWord_of_out_of_range hout)] at h
    cases h
    rfl

/-! ### The ends of a run (rule R347) -/

theorem step_of_current {s : State} {i : Instr} (hf : s.fault = none) (h : s.current = some i) : step s = exec i s := by
  unfold State.current at h
  split at h
  case h_1 => cases h
  case h_2 w hw =>
    split at h <;> cases h
    next hd => exact step_exec hf hw hd

/-- Settles O54: the self-loop sets pc to what it is, and the other two ends change nothing at all. -/
theorem endsAreFixedPoints : Obligations.EndsAreFixedPoints := by
  rintro s (⟨hf, nnn, hjp, hpc⟩ | hfaulted | ⟨hf, ⟨x, hwait⟩, hkey⟩)
  · rw [step_of_current hf hjp, exec_jp, hpc, State.setPc_self]
  · exact step_halted hfaulted
  · rw [step_of_current hf hwait]
    exact exec_ldVxK_wait s x ((pressedKeys_eq_nil_iff s).mpr hkey)

end Sys2Proof.Machine
end

section
/-! SUPPORT. Memory (spec/20_memory.md) and what an instruction finds in it: the canonical form as a normal form, the glyph
LD F points at, and the fetch after a store. -/

namespace Sys2Proof.Machine

/-! ### The canonical form is unique (log entry 5) -/

section
variable {m n : Memory} {a b : Nat} {v w : Byte}

/-- A canonical list reads as construction left memory at every address below its first. -/
theorem Memory.read_of_lt_head (h : Memory.wf ((b, w) :: n)) (hab : a < b) :
    Memory.read ((b, w) :: n) a = Memory.initial a := by
  obtain ⟨hhead, -⟩ := List.pairwise_cons.mp h.1
  refine Memory.read_of_unlisted fun c hc => ?_
  rcases List.mem_cons.mp hc with rfl | hc
  · exact hab.ne'
  · exact (hab.trans (hhead c hc)).ne'

theorem Memory.read_head : Memory.read ((a, v) :: m) a = v := if_pos rfl

theorem Memory.wf.head_ne_initial (h : Memory.wf ((a, v) :: m)) : v ≠ Memory.initial a := (h.2 (a, v) (by simp)).2

theorem Memory.wf.tail (h : Memory.wf ((a, v) :: m)) : m.wf :=
  ⟨(List.pairwise_cons.mp h.1).2, fun c hc => h.2 c (List.mem_cons_of_mem _ hc)⟩

theorem Memory.wf.read_tail_head (h : Memory.wf ((a, v) :: m)) : m.read a = Memory.initial a :=
  Memory.read_of_unlisted fun c hc => ((List.pairwise_cons.mp h.1).1 c hc).ne'

/-- An address one canonical list begins with cannot lie below the other's first: it would not read as construction
left it. -/
theorem Memory.head_le_of_read_eq (hm : Memory.wf ((a, v) :: m)) (hn : Memory.wf ((b, w) :: n))
    (h : ∀ c, Memory.read ((a, v) :: m) c = Memory.read ((b, w) :: n) c) : b ≤ a := by
  by_contra hlt
  have ha := h a
  rw [Memory.read_head, Memory.read_of_lt_head hn (Nat.not_le.mp hlt)] at ha
  exact hm.head_ne_initial ha

/-- A canonical list that reads everywhere as construction left memory is empty. -/
theorem Memory.eq_nil_of_read_initial (hm : m.wf) (h : ∀ c, m.read c = Memory.initial c) : m = [] := by
  cases m with
  | nil => rfl
  | cons c m => exact absurd (Memory.read_head.symm.trans (h c.1)) hm.head_ne_initial

end

/-- Settles O21, by induction on both lists: their first addresses are equal, so are the bytes there, and the tails read the
same, at the first address as construction left it. -/
theorem canonicalMemoriesAreEqual : Obligations.CanonicalMemoriesAreEqual := by
  intro m
  induction m with
  | nil => exact fun n _ hn h => (Memory.eq_nil_of_read_initial hn fun c => (h c).symm).symm
  | cons c m ih =>
    obtain ⟨a, v⟩ := c
    intro n hm hn h
    cases n with
    | nil => exact Memory.eq_nil_of_read_initial hm h
    | cons d n =>
      obtain ⟨b, w⟩ := d
      obtain rfl : a = b :=
        Nat.le_antisymm (Memory.head_le_of_read_eq hn hm fun c => (h c).symm) (Memory.head_le_of_read_eq hm hn h)
      obtain rfl : v = w := by simpa [Memory.read_head] using h a
      refine congrArg _ (ih n hm.tail hn.tail fun c => ?_)
      by_cases hc : c = a
      · rw [hc, hm.read_tail_head, hn.read_tail_head]
      · simpa [Memory.read, hc] using h c

/-! ### The address register (rules R192 and R194) -/

theorem zextByte_toNat (b : Byte) : (zextByte b).toNat = b.toNat :=
  BitVec.toNat_setWidth_of_le (by decide)

/-- Sixteen bits hold the product, so no mask loses a bit of it (decision D28). -/
theorem glyphAddr_toNat (b : Byte) : (glyphAddr b).toNat = b.toNat * 5 := by
  have hb := b.isLt
  rw [glyphAddr, BitVec.toNat_mul, zextByte_toNat]
  exact Nat.mod_eq_of_lt (by simp; omega)

/-- Settles O35: ADD I is one write of I and one of VF, LD F one write of I. -/
theorem addressIncrementAndFontLookup : Obligations.AddressIncrementAndFontLookup := by
  intro x s
  refine ⟨⟨_, exec_addI s x, rfl, ?_, fun r => ?_, by simp [unchangedBut_iff]⟩,
    ⟨_, exec_ldF s x, rfl, glyphAddr_toNat _, unchangedBut_advance_setI s _⟩⟩
  · exact (BitVec.toNat_add _ _).trans (by rw [zextByte_toNat])
  · rw [State.getV_setFlag, addressOverflow, flagByte_decide]
    rfl

/-- Settles O36: the sixteen glyphs lie in the reserved range, which holds what construction put there. -/
theorem fontGlyphAtI : Obligations.FontGlyphAtI := by
  intro x s hinv hx
  refine ⟨_, exec_ldF s x, fun k hk => ?_⟩
  obtain ⟨-, hreserved⟩ := hinv
  have hi : (s.advance.setI (glyphAddr (s.getV x))).i.toNat = (s.getV x).toNat * 5 := glyphAddr_toNat _
  rw [hi]
  exact hreserved _ (by simp only [Config.progBase]; omega)

/-! ### The fetch after a store (rule R71) -/

/-- The next fetch after an instruction that advances reads the two bytes at A + 2, as memory then holds them. -/
theorem fetchWord_after_advance {s t : State} {byte : Nat → Byte} (hpc : t.pc = s.pc + 2)
    (hin : (s.pc + 2).toNat + 1 < 0x1000) (hmem : ∀ a, t.mem.read a = byte a) :
    fetchWord t = .ok (byte (s.pc + 2).toNat ++ byte ((s.pc + 2).toNat + 1)) := by
  rw [fetchWord_of_in_range (by rw [hpc]; exact hin), hmem, hmem, hpc]

theorem byteAfterStore_spec {s t : State} {x : RegIndex}
    (hbytes : ∀ k, k ≤ x.toNat → t.mem.read (s.base + k) = (s.lowRegs x).getD k 0)
    (hmem : ∀ a, a < s.base ∨ s.base + x.toNat < a → t.mem.read a = s.mem.read a) (a : Nat) :
    t.mem.read a = byteAfterStore s x a := by
  unfold byteAfterStore
  split_ifs with ha
  · obtain ⟨hlow, hhigh⟩ := ha
    have hk : a - s.i.toNat ≤ x.toNat := by omega
    rw [← s.lowRegs_getD x _ hk, ← hbytes _ hk, State.base, Nat.add_sub_cancel' hlow]
  · exact hmem a (by simp only [State.base]; omega)

theorem byteAfterDecimal_spec {s t : State} {x : RegIndex}
    (hbytes : ∀ k, k ≤ 2 → t.mem.read (s.base + k) = (decimalDigits (s.getV x)).getD k 0)
    (hmem : ∀ a, a < s.base ∨ s.base + 2 < a → t.mem.read a = s.mem.read a) (a : Nat) :
    t.mem.read a = byteAfterDecimal s x a := by
  simp only [decimalDigits_getD] at hbytes
  unfold byteAfterDecimal
  split_ifs with h0 h1 h2
  · exact h0 ▸ hbytes 0 (by decide)
  · exact h1 ▸ hbytes 1 (by decide)
  · exact h2 ▸ hbytes 2 (by decide)
  · exact hmem a (by simp only [State.base]; omega)

/-- Settles O40: both stores advance pc and leave the bytes of the closed forms, which the fetch then reads. -/
theorem storeIsSeenByNextFetch : Obligations.StoreIsSeenByNextFetch := by
  intro x s hlow hin
  obtain ⟨hregs, -⟩ := exec_writeBytes_spec (fun _ => exec_storeRegs_ok s x) (fun _ => exec_storeRegs_error s x)
    (s.lowRegs_length x) x.isLt
  obtain ⟨hdigits, -⟩ := exec_writeBytes_spec (fun _ => exec_ldB_ok s x) (fun _ => exec_ldB_error s x)
    (decimalDigits_length (s.getV x)) (by decide)
  constructor
  · intro hhigh
    obtain ⟨t, ht, hpc, hbytes, hmem, -⟩ := hregs hlow hhigh
    exact ⟨t, ht, fetchWord_after_advance hpc hin (byteAfterStore_spec hbytes hmem)⟩
  · intro hhigh
    obtain ⟨t, ht, hpc, hbytes, hmem, -⟩ := hdigits hlow hhigh
    exact ⟨t, ht, fetchWord_after_advance hpc hin (byteAfterDecimal_spec hbytes hmem)⟩

end Sys2Proof.Machine
end

section
/-! SUPPORT. JP V0 (rule R132) and nested calls (rule R126): frames put one behind the other, and the calls and returns
around the inner ones. -/

namespace Sys2Proof.Machine

/-! ### JP V0 (rule R132) -/

/-- Settles O26: a 12-bit address and a byte add up to less than 2^16. -/
theorem jumpWithOffset : Obligations.JumpWithOffset := by
  intro nnn s
  refine ⟨_, exec_jpV0 s nnn, ?_, unchangedBut_setPc s _⟩
  have hn := nnn.isLt
  have hv := (s.getV 0).isLt
  rw [State.setPc_pc, BitVec.toNat_add, zextAddr_toNat, zextByte_toNat]
  exact Nat.mod_eq_of_lt (by omega)

/-! ### Frames of several instructions -/

theorem Part.same_trans {p : Part} {s t u : State} (h : p.same s t) (h' : p.same t u) : p.same s u := by
  cases p with
  | v | mem => exact fun a => (h' a).trans (h a)
  | _ => exact Eq.trans h' h

theorem unchangedBut.refl (parts : List Part) (s : State) : unchangedBut parts s s := by
  simp [unchangedBut_iff]

theorem unchangedBut.trans {parts : List Part} {s t u : State} (h : unchangedBut parts s t) (h' : unchangedBut parts t u) :
    unchangedBut parts s u :=
  fun p hp => Part.same_trans (h p hp) (h' p hp)

/-! ### Nested calls (rules R124 to R126) -/

theorem execAll_append {is js : List Instr} {s t : State} (h : execAll is s = .next t) :
    execAll (is ++ js) s = execAll js t := by
  induction is generalizing s with
  | nil =>
    cases h
    rfl
  | cons i is ih =>
    rw [execAll] at h
    split at h
    case h_1 u hu =>
      rw [List.cons_append, execAll, hu]
      exact ih h
    all_goals cases h

/-- What the calls to the targets and as many returns make of s: pc is behind the first call, SP and the slots below it are
as they were, and nothing but STACK has changed. -/
structure ReturnedFrom (targets : List Addr12) (s u : State) : Prop where
  pc : targets ≠ [] → u.pc = s.pc + 2
  sp : u.sp = s.sp
  slots : ∀ k (hk : k < 16), k < s.sp.val → u.stack[k] = s.stack[k]
  frame : unchangedBut [.pc, .sp, .stack] s u

/-- One more call around nested ones: they leave its slot alone, so the last return finds its address there. -/
theorem ReturnedFrom.ret {nnn : Addr12} {targets : List Addr12} {s s' u : State} (hroom : s.sp.val < 16)
    (hcall : exec (.call nnn) s = .next s') (hinner : ReturnedFrom targets s' u) :
    ∃ u', exec .ret u = .next u' ∧ ReturnedFrom (nnn :: targets) s u' := by
  obtain ⟨t, ht, hsp, hslot, -, hother, hframe⟩ := (callPushesAndJumps nnn s).1 hroom
  obtain rfl : t = s' := by simpa [ht] using hcall
  have hu : u.sp.val = s.sp.val + 1 := by rw [hinner.sp, hsp]
  obtain ⟨u', hret, hsp', hpc', hframe'⟩ := (retPopsReturnAddress u).1 (by omega)
  have htop : u.sp.val - 1 = s.sp.val := by omega
  have hstack : u'.stack = u.stack := hframe' .stack (by simp)
  refine ⟨u', hret, fun _ => ?_, Fin.ext (hsp'.trans htop), fun k hk hlow => ?_, ?_⟩
  · simp only [htop] at hpc'
    rw [hpc', hinner.slots _ hroom (by omega), hslot]
  · rw [hstack, hinner.slots k hk (by omega)]
    exact hother ⟨k, hk⟩ hlow.ne
  · exact (hframe.trans hinner.frame).trans (hframe'.mono (by simp))

theorem execAll_calls_then_rets (targets : List Addr12) : ∀ s : State, s.sp.val + targets.length ≤ 16 →
    ∃ t u, execAll (targets.map .call) s = .next t ∧ execAll (List.replicate targets.length .ret) t = .next u ∧
      ReturnedFrom targets s u := by
  induction targets with
  | nil => exact fun s _ => ⟨s, s, rfl, rfl, by simp, rfl, fun _ _ _ => rfl, .refl _ s⟩
  | cons nnn targets ih =>
    intro s hfits
    rw [List.length_cons] at hfits
    have hroom : s.sp.val < 16 := by omega
    obtain ⟨s', hcall, hsp, -⟩ := (callPushesAndJumps nnn s).1 hroom
    obtain ⟨t, u, hcalls, hrets, hinner⟩ := ih s' (by omega)
    obtain ⟨u', hret, houter⟩ := hinner.ret hroom hcall
    refine ⟨t, u', ?_, ?_, houter⟩
    · simp only [List.map_cons, execAll, hcall, hcalls]
    · rw [List.length_cons, List.replicate_succ', execAll_append hrets]
      simp only [execAll, hret]

/-- Settles O24, by induction on the targets, from the first call inwards. -/
theorem nestedCallsReturn : Obligations.NestedCallsReturn := by
  intro targets s hne hfits
  obtain ⟨t, u, hcalls, hrets, hreturned⟩ := execAll_calls_then_rets targets s hfits
  refine ⟨t, u, hcalls, hrets, hreturned.pc hne, hreturned.sp, fun p hp => ?_⟩
  by_cases hsp : p = .sp
  · exact hsp ▸ hreturned.sp
  · exact hreturned.frame p (by simpa [hsp] using hp)

end Sys2Proof.Machine
end

section
/-! SUPPORT. Which keys the free choice can pick (rule R257), and a sprite drawn twice at one place (rule R231). -/

namespace Sys2Proof.Machine

/-! ### The free choice among pressed keys (rule R257) -/

/-- The position of a key in the list is a choice that picks it. -/
theorem exists_chooseKey_of_mem {k : Nat} {ks : List Nat} (h : k ∈ ks) : ∃ choice, chooseKey choice ks = some k := by
  match ks, h with
  | [j], h =>
    exact ⟨0, by simpa [chooseKey, eq_comm] using h⟩
  | j :: l :: ks, h =>
    obtain ⟨c, hc, rfl⟩ := List.getElem_of_mem h
    refine ⟨c, ?_⟩
    have hmod : c % ((l :: ks).length + 1) = c := Nat.mod_eq_of_lt hc
    rw [chooseKey, hmod, List.getD_eq_getElem _ _ hc]
    simp

/-- Settles O47: the keys picked are those of the list of pressed keys, and KEY has no bit past the sixteenth. -/
theorem anyPressedKeyMayBeBound : Obligations.AnyPressedKeyMayBeBound := by
  intro s k
  constructor
  · rintro ⟨choice, h⟩
    exact ((mem_pressedKeys s k).mp (chooseKey_mem h)).2
  · intro hdown
    have hk : k < 16 := BitVec.lt_of_getLsbD hdown
    exact exists_chooseKey_of_mem ((mem_pressedKeys s k).mpr ⟨hk, hdown⟩)

/-! ### A sprite drawn twice (rules R226 to R231) -/

/-- Settles O43: fewer rows than the screen has, so the wrap reaches no row twice. -/
theorem spriteCellsAreDistinct : Obligations.SpriteCellsAreDistinct := by
  intro px py rows hlen
  exact ⟨spriteCells_nodup px rows py (by omega), fun _ => spriteCells_lt⟩

/-- Framebuffers whose cells read the same are equal (rule R29). -/
theorem fb_eq_of_fbCell {fb fb' : Framebuffer} (h : ∀ k, fbCell fb k = fbCell fb' k) : fb = fb' := by
  refine Vector.ext fun row hrow => BitVec.eq_of_getLsbD_eq fun col hcol => ?_
  have hcell := h (row * 64 + col)
  have hdiv : (row * 64 + col) / 64 = row := by omega
  have hmod : (row * 64 + col) % 64 = col := by omega
  simpa [fbCell, fbRow, hdiv, hmod, hrow] using hcell

theorem flagByte_eq_one_iff (f : Bool) : flagByte f = 1 ↔ f = true := by
  cases f <;> decide

section
variable {x y : RegIndex} {n : BitVec 4} {s t : State}

/-- Everything DRW does with its bytes in memory, cell by cell. -/
theorem exec_drw_effect (hin : n = 0 ∨ s.i.toNat + n.toNat ≤ 0x1000) (h : exec (.drw x y n) s = .next t) :
    t.i = s.i ∧ t.mem = s.mem ∧ (∀ k, fbCell t.fb k = (fbCell s.fb k ^^ decide (k ∈ s.targetCells x y n))) ∧
      (t.getV flagReg = 1 ↔ ∃ k, drawnAt s x y n k ∧ fbCell s.fb k = true) := by
  rw [exec_drw_of_in_range s x y n hin] at h
  cases h
  refine ⟨rfl, rfl, fbCell_drawCells_targetCells s x y n, ?_⟩
  rw [← drawCells_targetCells_collision, State.getV_setFlag, if_pos rfl, flagByte_eq_one_iff]

/-- The target cells depend on memory, I and the two coordinates alone. -/
theorem targetCells_congr (hi : t.i = s.i) (hmem : t.mem = s.mem) (hx : t.getV x = s.getV x) (hy : t.getV y = s.getV y) :
    t.targetCells x y n = s.targetCells x y n := by
  simp only [State.targetCells, State.base, hi, hmem, hx, hy]

end

/-- Settles O44: both draws invert the same cells, so a cell drawn is set before the second exactly when it was off before
the first. -/
theorem drawTwiceRestores : Obligations.DrawTwiceRestores := by
  intro x y n s t u hin hfirst hx hy hsecond
  obtain ⟨hi, hmem, hcell, -⟩ := exec_drw_effect hin hfirst
  obtain ⟨-, -, hcell', hflag⟩ := exec_drw_effect (hi ▸ hin) hsecond
  have htarget : t.targetCells x y n = s.targetCells x y n := targetCells_congr hi hmem hx hy
  constructor
  · exact fb_eq_of_fbCell fun k => by rw [hcell', hcell, htarget, Bool.xor_assoc, Bool.xor_self, Bool.xor_false]
  · rw [hflag]
    refine exists_congr fun k => ?_
    rw [← mem_targetCells, ← mem_targetCells, htarget, hcell]
    exact and_congr_right fun hk => by simp [hk]

end Sys2Proof.Machine
end

section
/-! SUPPORT. Words written out and words placed in memory: samples of the map (rule R84), and the model's own withFetchWord
(log entry 7). -/

namespace Sys2Proof

/-- Settles O4: the decoder evaluated on each of the nine words. -/
theorem sampleWordsDecode : Obligations.SampleWordsDecode := by
  unfold Obligations.SampleWordsDecode
  decide

/-- A table word that decodes is the word of its 16 bits. -/
theorem decode_of_decodeTableWord {w : Nat} {i : Instr} (h : decodeTableWord 16 w = some i) :
    decode (BitVec.ofNat 16 (w % 2 ^ 16)) = .ok i := by
  rw [decodeTableWord, decodeBytes_cons, wordOfBytes_bytes] at h
  generalize decode (BitVec.ofNat 16 (w % 2 ^ 16)) = d at h
  cases d with
  | error e => simp [Except.map] at h
  | ok j => simpa [Except.map] using h

end Sys2Proof

namespace Sys2Proof.Machine

/-- The placed word is fetched: pc is moved where no word fits, and the two bytes are those written at pc. -/
theorem fetchWord_withFetchWord (s : State) (w : Nat) :
    fetchWord (s.withFetchWord 16 w) = .ok (BitVec.ofNat 16 (w % 2 ^ 16)) := by
  have hpc : (s.withFetchWord 16 w).pc.toNat + 1 < 0x1000 := by
    simp only [State.withFetchWord, Config.memSize]
    split_ifs with hfits
    · exact hfits
    · decide
  have hmem : (s.withFetchWord 16 w).mem = s.mem.writeList (s.withFetchWord 16 w).pc.toNat
      [highByte (BitVec.ofNat 16 (w % 2 ^ 16)), lowByte (BitVec.ofNat 16 (w % 2 ^ 16))] := rfl
  rw [fetchWord_of_in_range hpc, hmem, Memory.read_writeList, Memory.read_writeList, if_pos (by simp), if_pos (by simp),
    Nat.sub_self, Nat.add_sub_cancel_left]
  exact congrArg _ (wordOfBytes_bytes _)

/-- Settles O55: the step fetches the placed word, which decodes to the instruction. -/
theorem placedWordRunsNext : Obligations.PlacedWordRunsNext := by
  intro s w i h
  exact step_exec rfl (fetchWord_withFetchWord s w) (decode_of_decodeTableWord h)

end Sys2Proof.Machine
end

section
/-! SUPPORT. The sessions the spec admits (rule R345): a load of a session split off after the last reset before it and before
the next one, and what an event in front of the session makes of the split. -/

namespace Sys2Proof.Machine

/-! ### Splits of a session at a load -/

/-- The session es split at one of its loads: `before` ends at the last reset before it (or is empty), `after` begins at the
next one. -/
structure LoadSplit (es before seg : List PortEvent) (bytes : List Byte) (rest after : List PortEvent) : Prop where
  eq : es = before ++ seg ++ .load bytes :: (rest ++ after)
  start : before = [] ∨ before.getLast? = some .reset
  seg : .reset ∉ seg
  rest : .reset ∉ rest
  stop : after = [] ∨ after.head? = some .reset

/-- At each of its loads the session keeps to rule R345; a load with no reset before it may come only if `mayLoad`. -/
def LoadsKeepShape (mayLoad : Bool) (es : List PortEvent) : Prop :=
  ∀ before seg bytes rest after, LoadSplit es before seg bytes rest after →
    (before = [] → mayLoad = true) ∧ .step ∉ seg ∧ (bytes.length ≤ 3584 → ∀ other, .load other ∉ rest)

section
variable {es before seg rest after : List PortEvent} {bytes : List Byte} {e : PortEvent}

theorem LoadSplit.cons_reset (h : LoadSplit es before seg bytes rest after) :
    LoadSplit (.reset :: es) (.reset :: before) seg bytes rest after where
  eq := congrArg _ h.eq
  start := .inr (by rcases h.start with rfl | hlast <;> simp_all [List.getLast?_cons])
  seg := h.seg
  rest := h.rest
  stop := h.stop

theorem LoadSplit.cons_before (h : LoadSplit es before seg bytes rest after) (hne : before ≠ []) :
    LoadSplit (e :: es) (e :: before) seg bytes rest after where
  eq := congrArg _ h.eq
  start := .inr (by simp [List.getLast?_cons, h.start.resolve_left hne])
  seg := h.seg
  rest := h.rest
  stop := h.stop

theorem LoadSplit.cons_seg (h : LoadSplit es [] seg bytes rest after) (he : e ≠ .reset) :
    LoadSplit (e :: es) [] (e :: seg) bytes rest after where
  eq := congrArg _ h.eq
  start := .inl rfl
  seg := by simp [h.seg, he.symm]
  rest := h.rest
  stop := h.stop

/-- At a load in front, everything up to the next reset comes after it. -/
theorem LoadSplit.cons_load {first : List Byte} (h : LoadSplit es [] seg bytes rest after) :
    LoadSplit (.load first :: es) [] [] first (seg ++ .load bytes :: rest) after where
  eq := by simp [h.eq]
  start := .inl rfl
  seg := by simp
  rest := by simp [h.seg, h.rest]
  stop := h.stop

theorem exists_loadSplit_cons_load (first : List Byte) (es : List PortEvent) :
    ∃ rest after, LoadSplit (.load first :: es) [] [] first rest after := by
  by_cases hreset : .reset ∈ es
  · obtain ⟨rest, tail, rfl, hrest⟩ := List.eq_append_cons_of_mem hreset
    exact ⟨rest, .reset :: tail, rfl, .inl rfl, by simp, hrest, .inr rfl⟩
  · exact ⟨es, [], by simp, .inl rfl, by simp, hreset, .inl rfl⟩

end

/-! ### From the shape of the loads to admission -/

section
variable {b b' : Bool} {e : PortEvent} {es : List PortEvent}

theorem LoadsKeepShape.of_cons_reset (h : LoadsKeepShape b (.reset :: es)) : LoadsKeepShape true es := by
  intro before seg bytes rest after hsplit
  exact ⟨fun _ => rfl, (h _ _ _ _ _ hsplit.cons_reset).2⟩

/-- Behind any other event the loads keep the shape, and one with no reset before it needs its own reason to be allowed. -/
theorem LoadsKeepShape.of_cons (h : LoadsKeepShape b (e :: es)) (he : e ≠ .reset)
    (hfirst : ∀ seg bytes rest after, LoadSplit es [] seg bytes rest after → b' = true) : LoadsKeepShape b' es := by
  intro before seg bytes rest after hsplit
  rcases eq_or_ne before [] with rfl | hne
  · obtain ⟨-, hstep, hload⟩ := h _ _ _ _ _ (hsplit.cons_seg he)
    exact ⟨fun _ => hfirst _ _ _ _ hsplit, fun hmem => hstep (List.mem_cons_of_mem _ hmem), hload⟩
  · obtain ⟨-, hshape⟩ := h _ _ _ _ _ (hsplit.cons_before hne)
    exact ⟨fun h0 => absurd h0 hne, hshape⟩

/-- A tick, a key event or a dirty_clear changes nothing about the loads behind it. -/
theorem LoadsKeepShape.of_cons_other (h : LoadsKeepShape b (e :: es)) (he : e ≠ .reset) : LoadsKeepShape b es :=
  h.of_cons he fun _ _ _ _ hsplit => (h _ _ _ _ _ (hsplit.cons_seg he)).1 rfl

theorem LoadsKeepShape.of_cons_step (h : LoadsKeepShape b (.step :: es)) : LoadsKeepShape false es := by
  refine h.of_cons (by decide) fun seg bytes rest after hsplit => ?_
  obtain ⟨-, hstep, -⟩ := h _ _ _ _ _ (hsplit.cons_seg (by decide))
  exact absurd List.mem_cons_self hstep

theorem LoadsKeepShape.of_cons_load {first : List Byte} (h : LoadsKeepShape b (.load first :: es)) :
    b = true ∧ LoadsKeepShape (decide (3584 < first.length)) es := by
  constructor
  · obtain ⟨rest, after, hsplit⟩ := exists_loadSplit_cons_load first es
    exact (h _ _ _ _ _ hsplit).1 rfl
  · refine h.of_cons (by simp) fun seg bytes rest after hsplit => decide_eq_true ?_
    obtain ⟨-, -, hload⟩ := h _ _ _ _ _ hsplit.cons_load
    by_contra hlong
    exact hload (Nat.not_lt.mp hlong) bytes (by simp)

end

theorem admittedFrom_of_loadsKeepShape {es : List PortEvent} : ∀ {b : Bool}, LoadsKeepShape b es →
    admittedFrom b es = true := by
  induction es with
  | nil => exact fun _ => rfl
  | cons e es ih =>
    intro b h
    cases e with
    | reset => exact ih h.of_cons_reset
    | step => exact ih h.of_cons_step
    | load first =>
      obtain ⟨hb, hes⟩ := h.of_cons_load
      exact Bool.and_eq_true_iff.mpr ⟨hb, ih hes⟩
    | tick | keyPress | keyRelease | dirtyClear => exact ih (h.of_cons_other (by simp))

/-! ### From admission to the shape of the loads -/

/-- Nothing before a reset matters to what may come after it. -/
theorem admittedFrom_after_reset {es : List PortEvent} (pre : List PortEvent) : ∀ {b : Bool},
    admittedFrom b (pre ++ .reset :: es) = true → admittedFrom true es = true := by
  induction pre with
  | nil => exact fun h => h
  | cons e pre ih =>
    intro b h
    cases e with
    | load bytes => exact ih (Bool.and_eq_true_iff.mp h).2
    | _ => exact ih h

/-- With no reset before it, an admitted load was allowed from the start and comes before any step; a load behind it is
allowed only if this one is refused. -/
theorem admittedFrom_load {es : List PortEvent} {bytes : List Byte} {seg : List PortEvent} (hseg : .reset ∉ seg) :
    ∀ {b : Bool}, admittedFrom b (seg ++ .load bytes :: es) = true →
      b = true ∧ .step ∉ seg ∧ admittedFrom (decide (3584 < bytes.length)) es = true := by
  induction seg with
  | nil =>
    intro b h
    obtain ⟨hb, hes⟩ := Bool.and_eq_true_iff.mp h
    exact ⟨hb, by simp, hes⟩
  | cons e seg ih =>
    intro b h
    obtain ⟨he, hseg'⟩ : PortEvent.reset ≠ e ∧ .reset ∉ seg := by simpa using hseg
    cases e with
    | reset => exact absurd rfl he
    | step => exact absurd (ih hseg' h).1 (by decide)
    | load first =>
      obtain ⟨hb, hrest⟩ := Bool.and_eq_true_iff.mp h
      obtain ⟨-, hstep, hes⟩ := ih hseg' hrest
      exact ⟨hb, by simp [hstep], hes⟩
    | tick | keyPress | keyRelease | dirtyClear =>
      obtain ⟨hb, hstep, hes⟩ := ih hseg' h
      exact ⟨hb, by simp [hstep], hes⟩

theorem admittedFrom_from_last_reset {before es : List PortEvent} (hstart : before = [] ∨ before.getLast? = some .reset)
    (h : admittedFrom true (before ++ es) = true) : admittedFrom true es = true := by
  rcases hstart with rfl | hlast
  · exact h
  · obtain ⟨pre, rfl⟩ := List.getLast?_eq_some_iff.mp hlast
    rw [List.append_assoc] at h
    exact admittedFrom_after_reset pre h

/-- Behind a load that was accepted there is no other before the next reset. -/
theorem not_load_mem_of_admittedFrom_false {rest after : List PortEvent} (hrest : .reset ∉ rest)
    (h : admittedFrom false (rest ++ after) = true) (other : List Byte) : .load other ∉ rest := by
  intro hmem
  obtain ⟨pre, post, rfl⟩ := List.append_of_mem hmem
  rw [List.append_assoc] at h
  exact absurd (admittedFrom_load (fun hpre => hrest (by simp [hpre])) h).1 (by decide)

/-- Settles O53: an admitted session is read from its last reset to the load and on to the next reset; conversely the shape is
carried through the session, event by event. -/
theorem admittedSessionsLoadOnce : Obligations.AdmittedSessionsLoadOnce := by
  intro es
  constructor
  · rintro h before seg rest after bytes rfl hstart hseg hrest -
    rw [List.append_assoc] at h
    obtain ⟨-, hstep, hes⟩ := admittedFrom_load hseg (admittedFrom_from_last_reset hstart h)
    refine ⟨hstep, fun hfits => ?_⟩
    rw [decide_eq_false hfits.not_gt] at hes
    exact not_load_mem_of_admittedFrom_false hrest hes
  · intro h
    refine admittedFrom_of_loadsKeepShape fun before seg bytes rest after hsplit => ⟨fun _ => rfl, ?_⟩
    exact h before seg rest after bytes hsplit.eq hsplit.start hsplit.seg hsplit.rest hsplit.stop

end Sys2Proof.Machine
end

section
/-! SUPPORT. The register matrix of rule R22: which registers an instruction keeps, and two runs whose states before differ
in one register that the instruction does not read. -/

namespace Sys2Proof.Machine

/-! ### The writes column -/

/-- A register outside the writes column keeps its value. -/
theorem exec_keeps_getV {i : Instr} {s t : State} {r : RegIndex} (h : exec i s = .next t) (hr : ¬ writesReg i r) :
    t.getV r = s.getV r := by
  cases i with
  | ldImm x | addImm x | ldReg x | orReg x | andReg x | xorReg x | rnd x | ldVxDT x =>
    cases h
    exact (State.getV_setV _ x r _).trans (if_neg hr)
  | addReg x | subReg x | subnReg x | shr x | shl x =>
    cases h
    obtain ⟨hx, hflag⟩ := not_or.mp hr
    rw [State.getV_setResultFlag, if_neg hflag, if_neg hx]
    rfl
  | addI x =>
    cases h
    exact (State.getV_setFlag _ _ r).trans (if_neg hr)
  | ldVxK x =>
    cases hk : chooseKey (Config.keyChoice s.keyPicks) s.pressedKeys with
    | none =>
      obtain rfl : s = t := by simpa [exec_ldVxK_wait s x (chooseKey_none.mp hk)] using h
      rfl
    | some k =>
      rw [exec_ldVxK_bind s x hk] at h
      cases h
      exact (State.getV_setV _ x r _).trans (if_neg hr)
  | loadRegs x =>
    rcases exec_next_cases h with ⟨e, -, rfl⟩ | heffect
    · rfl
    · rw [exec_loadRegs_ok s x (readBytes_of_ruleReadFault_none s.mem heffect.raisesNone)] at h
      cases h
      rw [State.getV_setLowRegs_range, if_neg fun hlt => hr (Nat.lt_succ_iff.mp hlt)]
      rfl
  | drw x y n =>
    rcases exec_next_cases h with ⟨e, -, rfl⟩ | heffect
    · rfl
    · rw [exec_drw_ok s x y n (readBytes_of_ruleReadFault_none s.mem heffect.raisesNone)] at h
      cases h
      exact (State.getV_setFlag _ _ r).trans (if_neg hr)
  | _ => exact stateChangesOnlyByNamedInstructions _ s t h .v (by simp [partsWritten]) r

/-! ### The reads column -/

/-- Two states agree but for register r. -/
structure AgreeBut (r : RegIndex) (s t : State) : Prop where
  frame : unchangedBut [.v] s t
  getV : ∀ q, q ≠ r → t.getV q = s.getV q

/-- Registers written alike, VF among them, keep the difference or remove it. -/
theorem AgreeBut.setV {r : RegIndex} {t t' : State} (h : AgreeBut r t t') (x : RegIndex) (c : Byte) :
    AgreeBut r (t.setV x c) (t'.setV x c) where
  frame := by simpa [unchangedBut_iff] using h.frame
  getV q hq := by simp [h.getV q hq]

theorem AgreeBut.setLowRegs {r : RegIndex} {t t' : State} (h : AgreeBut r t t') (bs : List Byte) :
    AgreeBut r (t.setLowRegs bs) (t'.setLowRegs bs) where
  frame := by simpa [unchangedBut_iff] using h.frame
  getV q hq := by simp [h.getV q hq]

section
variable (s : State) (r : RegIndex) (b : Byte)

/-- An update that keeps the register file keeps the difference in it. -/
theorem agreeBut_of_v_eq {t t' : State} (hv : t.v = s.v) (hv' : t'.v = (s.setV r b).v) (hframe : unchangedBut [.v] t t') :
    AgreeBut r t t' := by
  refine ⟨hframe, fun q hq => ?_⟩
  simp only [State.getV, hv, hv']
  exact (State.getV_setV s r q b).trans (if_neg hq)

/-! The same update of a state and of one that differs from it in V[r]. -/

theorem agreeBut_takeFault (e : Raised) : AgreeBut r (s.takeFault e) ((s.setV r b).takeFault e) :=
  agreeBut_of_v_eq s r b rfl rfl (by simp [unchangedBut_iff])

theorem agreeBut_advance : AgreeBut r s.advance (s.setV r b).advance :=
  agreeBut_of_v_eq s r b rfl rfl (by simp [unchangedBut_iff])

theorem agreeBut_setPc (w : Word) : AgreeBut r (s.setPc w) ((s.setV r b).setPc w) :=
  agreeBut_of_v_eq s r b rfl rfl (by simp [unchangedBut_iff])

theorem agreeBut_skipIf (c : Bool) : AgreeBut r (s.advance.skipIf c) ((s.setV r b).advance.skipIf c) := by
  rw [State.skipIf_eq, State.skipIf_eq]
  exact agreeBut_setPc s r b _

theorem agreeBut_setI (w : Word) : AgreeBut r (s.advance.setI w) ((s.setV r b).advance.setI w) :=
  agreeBut_of_v_eq s r b rfl rfl (by simp [unchangedBut_iff])

theorem agreeBut_setMem (m : Memory) : AgreeBut r (s.advance.setMem m) ((s.setV r b).advance.setMem m) :=
  agreeBut_of_v_eq s r b rfl rfl (by simp [unchangedBut_iff])

theorem agreeBut_setFB (fb : Framebuffer) : AgreeBut r (s.advance.setFB fb) ((s.setV r b).advance.setFB fb) :=
  agreeBut_of_v_eq s r b rfl rfl (by simp [unchangedBut_iff])

theorem agreeBut_countDraw : AgreeBut r s.advance.countDraw (s.setV r b).advance.countDraw :=
  agreeBut_of_v_eq s r b rfl rfl (by simp [unchangedBut_iff])

theorem agreeBut_countPick : AgreeBut r s.advance.countPick (s.setV r b).advance.countPick :=
  agreeBut_of_v_eq s r b rfl rfl (by simp [unchangedBut_iff])

theorem agreeBut_setV (x : RegIndex) (c : Byte) : AgreeBut r (s.advance.setV x c) ((s.setV r b).advance.setV x c) :=
  (agreeBut_advance s r b).setV x c

theorem agreeBut_setResultFlag (x : RegIndex) (c : Byte) (f : Bool) :
    AgreeBut r (s.advance.setResultFlag x c f) ((s.setV r b).advance.setResultFlag x c f) :=
  (agreeBut_setV s r b x c).setV flagReg (flagByte f)

/-- V0 .. V[x] are the same bytes, whatever a register above them holds (rule R198). -/
theorem lowRegs_setV_of_lt {x : RegIndex} (h : x < r) : (s.setV r b).lowRegs x = s.lowRegs x := by
  have hlt : x.toNat < r.toNat := h
  refine List.ext_getElem (by simp [State.lowRegs_length]) fun k hk _ => ?_
  rw [State.lowRegs_length] at hk
  have hne : r.toNat ≠ k := by omega
  simp [State.lowRegs, State.setV, hne]

end

/-- Two runs from states that differ in a register outside the reads column: it has no influence on the effect of the
instruction, nor on its fault. -/
theorem exec_agreeBut {i : Instr} (s : State) {r : RegIndex} (b : Byte) (hr : ¬ readsReg i r) :
    ∃ t t', exec i s = .next t ∧ exec i (s.setV r b) = .next t' ∧ AgreeBut r t t' := by
  have hread (q : RegIndex) (hq : readsReg i q) : (s.setV r b).getV q = s.getV q :=
    (State.getV_setV s r q b).trans (if_neg fun (heq : q = r) => hr (heq ▸ hq))
  cases i with
  | cls => exact ⟨_, _, exec_cls s, exec_cls _, agreeBut_setFB s r b _⟩
  | sys nnn =>
    exact ⟨_, _, exec_sys s nnn, exec_sys _ nnn,
      agreeBut_of_v_eq s r b rfl rfl (by simp [unchangedBut_iff, decodeFailure])⟩
  | jp nnn => exact ⟨_, _, exec_jp s nnn, exec_jp _ nnn, agreeBut_setPc s r b _⟩
  | jpV0 nnn =>
    exact ⟨_, _, exec_jpV0 s nnn, exec_jpV0 _ nnn, by rw [hread 0 rfl]; exact agreeBut_setPc s r b _⟩
  | seImm x kk =>
    exact ⟨_, _, exec_seImm s x kk, exec_seImm _ x kk, by rw [hread x rfl]; exact agreeBut_skipIf s r b _⟩
  | sneImm x kk =>
    exact ⟨_, _, exec_sneImm s x kk, exec_sneImm _ x kk, by rw [hread x rfl]; exact agreeBut_skipIf s r b _⟩
  | seReg x y =>
    exact ⟨_, _, exec_seReg s x y, exec_seReg _ x y, by
      rw [hread x (.inl rfl), hread y (.inr rfl)]; exact agreeBut_skipIf s r b _⟩
  | sneReg x y =>
    exact ⟨_, _, exec_sneReg s x y, exec_sneReg _ x y, by
      rw [hread x (.inl rfl), hread y (.inr rfl)]; exact agreeBut_skipIf s r b _⟩
  | ldImm x kk => exact ⟨_, _, exec_ldImm s x kk, exec_ldImm _ x kk, agreeBut_setV s r b x kk⟩
  | addImm x kk =>
    exact ⟨_, _, exec_addImm s x kk, exec_addImm _ x kk, by rw [hread x rfl]; exact agreeBut_setV s r b x _⟩
  | ldReg x y =>
    exact ⟨_, _, exec_ldReg s x y, exec_ldReg _ x y, by rw [hread y rfl]; exact agreeBut_setV s r b x _⟩
  | orReg x y =>
    exact ⟨_, _, exec_orReg s x y, exec_orReg _ x y, by
      rw [hread x (.inl rfl), hread y (.inr rfl)]; exact agreeBut_setV s r b x _⟩
  | andReg x y =>
    exact ⟨_, _, exec_andReg s x y, exec_andReg _ x y, by
      rw [hread x (.inl rfl), hread y (.inr rfl)]; exact agreeBut_setV s r b x _⟩
  | xorReg x y =>
    exact ⟨_, _, exec_xorReg s x y, exec_xorReg _ x y, by
      rw [hread x (.inl rfl), hread y (.inr rfl)]; exact agreeBut_setV s r b x _⟩
  | addReg x y =>
    exact ⟨_, _, exec_addReg s x y, exec_addReg _ x y, by
      rw [hread x (.inl rfl), hread y (.inr rfl)]; exact agreeBut_setResultFlag s r b x _ _⟩
  | subReg x y =>
    exact ⟨_, _, exec_subReg s x y, exec_subReg _ x y, by
      rw [hread x (.inl rfl), hread y (.inr rfl)]; exact agreeBut_setResultFlag s r b x _ _⟩
  | subnReg x y =>
    exact ⟨_, _, exec_subnReg s x y, exec_subnReg _ x y, by
      rw [hread x (.inl rfl), hread y (.inr rfl)]; exact agreeBut_setResultFlag s r b x _ _⟩
  | shr x y =>
    exact ⟨_, _, exec_shr s x y, exec_shr _ x y, by rw [hread x rfl]; exact agreeBut_setResultFlag s r b x _ _⟩
  | shl x y =>
    exact ⟨_, _, exec_shl s x y, exec_shl _ x y, by rw [hread x rfl]; exact agreeBut_setResultFlag s r b x _ _⟩
  | rnd x kk =>
    exact ⟨_, _, exec_rnd s x kk, exec_rnd _ x kk,
      (agreeBut_countDraw s r b).setV x _⟩
  | ldI nnn => exact ⟨_, _, exec_ldI s nnn, exec_ldI _ nnn, agreeBut_setI s r b _⟩
  | addI x =>
    exact ⟨_, _, exec_addI s x, exec_addI _ x, by rw [hread x rfl]; exact (agreeBut_setI s r b _).setV flagReg _⟩
  | ldF x => exact ⟨_, _, exec_ldF s x, exec_ldF _ x, by rw [hread x rfl]; exact agreeBut_setI s r b _⟩
  | ldVxDT x => exact ⟨_, _, exec_ldVxDT s x, exec_ldVxDT _ x, agreeBut_setV s r b x _⟩
  | ldDTVx x =>
    exact ⟨_, _, exec_ldDTVx s x, exec_ldDTVx _ x, by
      rw [hread x rfl]; exact agreeBut_of_v_eq s r b rfl rfl (by simp [unchangedBut_iff])⟩
  | ldSTVx x =>
    exact ⟨_, _, exec_ldSTVx s x, exec_ldSTVx _ x, by
      rw [hread x rfl]; exact agreeBut_of_v_eq s r b rfl rfl (by simp [unchangedBut_iff])⟩
  | ret =>
    by_cases h : 0 < s.sp.val
    · exact ⟨_, _, exec_ret_ok s h, exec_ret_ok (s.setV r b) h,
        agreeBut_of_v_eq s r b rfl rfl (by simp [unchangedBut_iff])⟩
    · exact ⟨_, _, exec_ret_empty s h, exec_ret_empty (s.setV r b) h, agreeBut_takeFault s r b _⟩
  | call nnn =>
    by_cases h : s.sp.val < 16
    · exact ⟨_, _, exec_call_ok s nnn h, exec_call_ok (s.setV r b) nnn h,
        agreeBut_of_v_eq s r b rfl rfl (by simp [unchangedBut_iff])⟩
    · exact ⟨_, _, exec_call_full s nnn h, exec_call_full (s.setV r b) nnn h, agreeBut_takeFault s r b _⟩
  | skp x =>
    have hx := hread x rfl
    rcases Nat.lt_or_ge 15 (s.getV x).toNat with h | h
    · exact ⟨_, _, exec_skp_error s x h, exec_skp_error _ x (hx ▸ h), by rw [hx]; exact agreeBut_takeFault s r b _⟩
    · exact ⟨_, _, exec_skp_ok s x h, exec_skp_ok _ x (hx ▸ h), by rw [hx]; exact agreeBut_skipIf s r b _⟩
  | sknp x =>
    have hx := hread x rfl
    rcases Nat.lt_or_ge 15 (s.getV x).toNat with h | h
    · exact ⟨_, _, exec_sknp_error s x h, exec_sknp_error _ x (hx ▸ h), by rw [hx]; exact agreeBut_takeFault s r b _⟩
    · exact ⟨_, _, exec_sknp_ok s x h, exec_sknp_ok _ x (hx ▸ h), by rw [hx]; exact agreeBut_skipIf s r b _⟩
  | ldVxK x =>
    cases h : chooseKey (Config.keyChoice s.keyPicks) s.pressedKeys with
    | none =>
      have hnil := chooseKey_none.mp h
      exact ⟨_, _, exec_ldVxK_wait s x hnil, exec_ldVxK_wait (s.setV r b) x hnil, agreeBut_setPc s r b s.pc⟩
    | some k =>
      exact ⟨_, _, exec_ldVxK_bind s x h, exec_ldVxK_bind (s.setV r b) x h, (agreeBut_countPick s r b).setV x _⟩
  | ldB x =>
    have hx := hread x rfl
    cases h : writeBytes s.mem s.base (decimalDigits (s.getV x)) with
    | error e => exact ⟨_, _, exec_ldB_error s x h, exec_ldB_error _ x (hx ▸ h), agreeBut_takeFault s r b e⟩
    | ok m => exact ⟨_, _, exec_ldB_ok s x h, exec_ldB_ok _ x (hx ▸ h), agreeBut_setMem s r b m⟩
  | storeRegs x =>
    have hregs := lowRegs_setV_of_lt s r b (BitVec.not_le.mp hr)
    cases h : writeBytes s.mem s.base (s.lowRegs x) with
    | error e =>
      exact ⟨_, _, exec_storeRegs_error s x h, exec_storeRegs_error _ x (hregs ▸ h), agreeBut_takeFault s r b e⟩
    | ok m => exact ⟨_, _, exec_storeRegs_ok s x h, exec_storeRegs_ok _ x (hregs ▸ h), agreeBut_setMem s r b m⟩
  | loadRegs x =>
    cases h : readBytes s.mem s.base (x.toNat + 1) with
    | error e =>
      exact ⟨_, _, exec_loadRegs_error s x h, exec_loadRegs_error (s.setV r b) x h, agreeBut_takeFault s r b e⟩
    | ok bs =>
      exact ⟨_, _, exec_loadRegs_ok s x h, exec_loadRegs_ok (s.setV r b) x h, (agreeBut_advance s r b).setLowRegs bs⟩
  | drw x y n =>
    cases h : readBytes s.mem s.base n.toNat with
    | error e =>
      exact ⟨_, _, exec_drw_error s x y n h, exec_drw_error (s.setV r b) x y n h, agreeBut_takeFault s r b e⟩
    | ok rows =>
      exact ⟨_, _, exec_drw_ok s x y n h, exec_drw_ok (s.setV r b) x y n h, by
        rw [hread x (.inl rfl), hread y (.inr rfl)]; exact (agreeBut_setFB s r b _).setV flagReg _⟩

/-- Settles O19: the writes column is `exec_keeps_getV`, the reads column `exec_agreeBut`. -/
theorem registerReadWriteMatrix : Obligations.RegisterReadWriteMatrix := by
  constructor
  · exact fun i s t r => exec_keeps_getV
  · intro i s t t' r b hr h h'
    obtain ⟨u, u', hu, hu', hframe, hv⟩ := exec_agreeBut s b hr
    obtain rfl : u = t := by simpa [hu] using h
    obtain rfl : u' = t' := by simpa [hu'] using h'
    exact ⟨hframe, hv⟩

end Sys2Proof.Machine
end
